-- ==== Sys2Proof/Word.lean ====
section
/-! DEFINITION. The word types of the Aurora VM core (00_scope.md R8, R11): registers, addresses and program-counter values
are 32-bit vectors, memory elements are bytes, the counters are 64-bit vectors. -/

namespace Sys2Proof

/-- A 32-bit register value, address or pc value (R8 XLEN, R11). -/
abbrev Word := BitVec 32

/-- One element of the memory array (R100). -/
abbrev Byte := BitVec 8

/-- A counter value: `instruction_count`, `cycle_count` and `ticks` are 64 bits wide (R56). -/
abbrev Count := BitVec 64

/-- The index of a general register: a 4-bit field selects one of r0..r15 (R40, R151). -/
abbrev Reg := Fin 16

/-- The number of an interrupt vector (R8 NVEC, R53). -/
abbrev Irq := Fin 32

end Sys2Proof
end

