-- ==== Sys2Proof/Machine/Bytes.lean ====
section
/-! DEFINITION. Byte order: words are little-endian, with no switch (20_memory.md R108). -/

namespace Sys2Proof.Machine

/-- The word `{b3, b2, b1, b0}` of four bytes, `b0` from the lowest address (R13, R108). -/
def wordOfBytes (b0 b1 b2 b3 : Byte) : Word :=
  b3 ++ b2 ++ b1 ++ b0

/-- Byte `k` of a word: bits 8k+7:8k, stored at the word's address plus `k` (R13, R108). -/
def byteOfWord (w : Word) (k : Nat) : Byte :=
  w.extractLsb' (8 * k) 8

/-- The four bytes of a word in the order of their addresses (R13, R108). -/
def bytesOfWord (w : Word) : List Byte :=
  [byteOfWord w 0, byteOfWord w 1, byteOfWord w 2, byteOfWord w 3]

end Sys2Proof.Machine
end

