-- ==== Sys2Proof/Syntax.lean ====
section
/-! DEFINITION. The instructions of the Aurora VM core as syntax: one constructor of `Instr` per row of
spec/opcode_table.json (30_encoding.md R160). Register fields are register indices; an immediate is the 32-bit value that
R156 assembles from its field, so `WellFormed` says which values a field can hold. -/

namespace Sys2Proof

/-- The three instruction formats (R150 to R153). -/
inductive Format where
  /-- register-register (R151) -/
  | r
  /-- register-immediate, signed 16-bit (R152) -/
  | i
  /-- jump-immediate, signed 24-bit (R153) -/
  | j
  deriving DecidableEq, Repr

/-- The names of the 38 operations, the left-hand sides of the parameter OPCODE_MAP (R9, R160). -/
inductive Op where
  | add
  | sub
  | mul
  | div
  | mod
  | and
  | or
  | xor
  | cmp
  | test
  | slt
  | sle
  | seq
  | sne
  | loadi
  | move
  | jmp
  | jz
  | jnz
  | call
  | ret
  | syscall
  | halt
  | xchg
  | cas
  | faddAtomic
  | fadd
  | fsub
  | fmul
  | fdiv
  | fcmp
  | fcvt
  | icvt
  | fmov
  | vadd
  | vsub
  | vmul
  | vdot
  deriving DecidableEq, Repr

/-- All 38 operations, in the order of R160. -/
def Op.all : List Op :=
  [.add, .sub, .mul, .div, .mod, .and, .or, .xor, .cmp, .test,
   .slt, .sle, .seq, .sne, .loadi, .move, .jmp, .jz, .jnz, .call,
   .ret, .syscall, .halt, .xchg, .cas, .faddAtomic, .fadd, .fsub, .fmul, .fdiv,
   .fcmp, .fcvt, .icvt, .fmov, .vadd, .vsub, .vmul, .vdot]

/-- One instruction with its operands (R160). Fields of a format that an instruction does not use are not part of it
(R155). -/
inductive Instr where
  /-- ADD: add (R201) -/
  | add (rd rs1 rs2 : Reg)
  /-- SUB: subtract (R202) -/
  | sub (rd rs1 rs2 : Reg)
  /-- MUL: multiply, low word (R203) -/
  | mul (rd rs1 rs2 : Reg)
  /-- DIV: unsigned divide (R204) -/
  | div (rd rs1 rs2 : Reg)
  /-- MOD: unsigned remainder (R205) -/
  | mod (rd rs1 rs2 : Reg)
  /-- AND: bitwise and (R208) -/
  | and (rd rs1 rs2 : Reg)
  /-- OR: bitwise or (R209) -/
  | or (rd rs1 rs2 : Reg)
  /-- XOR: bitwise exclusive or (R210) -/
  | xor (rd rs1 rs2 : Reg)
  /-- CMP: compare, flags only (R211) -/
  | cmp (rs1 rs2 : Reg)
  /-- TEST: and, flags only (R212) -/
  | test (rs1 rs2 : Reg)
  /-- SLT: set if less than, signed (R213) -/
  | slt (rd rs1 rs2 : Reg)
  /-- SLE: set if less than or equal, signed (R214) -/
  | sle (rd rs1 rs2 : Reg)
  /-- SEQ: set if equal (R215) -/
  | seq (rd rs1 rs2 : Reg)
  /-- SNE: set if not equal (R216) -/
  | sne (rd rs1 rs2 : Reg)
  /-- LOADI: load immediate (R240) -/
  | loadi (rd : Reg) (imm : Word)
  /-- MOVE: register copy (R241) -/
  | move (rd rs1 : Reg)
  /-- JMP: unconditional jump (R261) -/
  | jmp (target : Word)
  /-- JZ: jump if zero (R262) -/
  | jz (target : Word)
  /-- JNZ: jump if not zero (R263) -/
  | jnz (target : Word)
  /-- CALL: call subroutine (R264) -/
  | call (target : Word)
  /-- RET: return from subroutine or interrupt (R265) -/
  | ret
  /-- SYSCALL: environment call (R290) -/
  | syscall
  /-- HALT: stop the CPU (R266) -/
  | halt
  /-- XCHG: atomic exchange (R310) -/
  | xchg (rd rs1 rs2 : Reg)
  /-- CAS: compare and swap (R311) -/
  | cas (rd rs1 rs2 : Reg)
  /-- FADD_ATOMIC: atomic fetch-and-add (integer) (R312) -/
  | faddAtomic (rd rs1 rs2 : Reg)
  /-- FADD: binary32 add (R331) -/
  | fadd (rd rs1 rs2 : Reg)
  /-- FSUB: binary32 subtract (R332) -/
  | fsub (rd rs1 rs2 : Reg)
  /-- FMUL: binary32 multiply (R333) -/
  | fmul (rd rs1 rs2 : Reg)
  /-- FDIV: binary32 divide (R334) -/
  | fdiv (rd rs1 rs2 : Reg)
  /-- FCMP: binary32 compare, flags only (R335) -/
  | fcmp (rs1 rs2 : Reg)
  /-- FCVT: signed integer to binary32 (R336) -/
  | fcvt (rd rs1 : Reg)
  /-- ICVT: binary32 to signed integer, truncating (R337) -/
  | icvt (rd rs1 : Reg)
  /-- FMOV: FP register move (R338) -/
  | fmov (rd rs1 : Reg)
  /-- VADD: lane-wise add (R371) -/
  | vadd (rd rs1 rs2 : Reg)
  /-- VSUB: lane-wise subtract (R372) -/
  | vsub (rd rs1 rs2 : Reg)
  /-- VMUL: lane-wise multiply, low byte (R373) -/
  | vmul (rd rs1 rs2 : Reg)
  /-- VDOT: dot product of the four lanes (R374) -/
  | vdot (rd rs1 rs2 : Reg)
  deriving DecidableEq, Repr

/-- The operation an instruction is a form of. -/
def Instr.op : Instr → Op
  | .add _ _ _ => .add
  | .sub _ _ _ => .sub
  | .mul _ _ _ => .mul
  | .div _ _ _ => .div
  | .mod _ _ _ => .mod
  | .and _ _ _ => .and
  | .or _ _ _ => .or
  | .xor _ _ _ => .xor
  | .cmp _ _ => .cmp
  | .test _ _ => .test
  | .slt _ _ _ => .slt
  | .sle _ _ _ => .sle
  | .seq _ _ _ => .seq
  | .sne _ _ _ => .sne
  | .loadi _ _ => .loadi
  | .move _ _ => .move
  | .jmp _ => .jmp
  | .jz _ => .jz
  | .jnz _ => .jnz
  | .call _ => .call
  | .ret => .ret
  | .syscall => .syscall
  | .halt => .halt
  | .xchg _ _ _ => .xchg
  | .cas _ _ _ => .cas
  | .faddAtomic _ _ _ => .faddAtomic
  | .fadd _ _ _ => .fadd
  | .fsub _ _ _ => .fsub
  | .fmul _ _ _ => .fmul
  | .fdiv _ _ _ => .fdiv
  | .fcmp _ _ => .fcmp
  | .fcvt _ _ => .fcvt
  | .icvt _ _ => .icvt
  | .fmov _ _ => .fmov
  | .vadd _ _ _ => .vadd
  | .vsub _ _ _ => .vsub
  | .vmul _ _ _ => .vmul
  | .vdot _ _ _ => .vdot

end Sys2Proof
end

