-- ==== Sys2Proof/Config.lean ====
section
/-! DEFINITION. What the spec fixes for the implementation (00_scope.md R8), the parameters it leaves to an implementation
(R9), and the values it leaves open. A parameter with a default is a field of `Params`, carried by the machine state, so
that a statement about every state holds for every value of the parameter. A parameter without a default and a draw are
opaque constants: nothing can be proved about their values. -/

namespace Sys2Proof

/-! ### Fixed parameters (R8) -/

/-- MEM_SIZE: 64 KiB (R8, R100). -/
abbrev memSize : Nat := 65536

/-- PAGE_SIZE: 256 bytes (R8). -/
abbrev pageSize : Nat := 256

/-- NPAGES: 256 (R8). -/
abbrev pageCount : Nat := 256

/-- NBP: at most 16 breakpoints (R8, R54). -/
abbrev maxBreakpoints : Nat := 16

/-! ### Parameters with a default (R9) -/

/-- How a J immediate becomes a target (R260). -/
inductive JTargetMode where
  /-- the immediate is the target address -/
  | absolute
  /-- the target is the jump's own address plus the immediate -/
  | pcRelative
  deriving DecidableEq, Repr

/-- OPCODE_MAP: the opcode byte of each operation (R9, R160), as a table. -/
abbrev OpcodeMap := List (Byte × Op)

/-- The parameters of R9 that have a default. They do not change while the machine runs. -/
structure Params where
  /-- OPCODE_MAP (decision D1) -/
  opcodeMap : OpcodeMap
  /-- J_TARGET_MODE (decision D4) -/
  jTargetMode : JTargetMode
  /-- SP_RESET (decision D17) -/
  spReset : Word
  /-- HEAP_BASE (decision D15) -/
  heapBase : Word
  /-- HEAP_SIZE (decision D15) -/
  heapSize : Word
  /-- MMIO_BASE (decision D15) -/
  mmioBase : Word
  /-- MMIO_SIZE (decision D15) -/
  mmioSize : Word
  deriving DecidableEq, Repr

/-! ### Plain data that crosses the block's boundary -/

/-- The four flag bits by name (R46). -/
structure Flags where
  /-- ZERO, bit 0 -/
  z : Bool
  /-- CARRY, bit 1 -/
  c : Bool
  /-- NEGATIVE, bit 2 -/
  n : Bool
  /-- OVERFLOW, bit 3 -/
  v : Bool
  deriving DecidableEq, Repr, Inhabited

/-- One execution context: what a SYSCALL Switch outcome hands out and loads (R41, R296). -/
structure Context where
  x : Vector Word 16
  pc : Word
  sp : Word
  fp : Word
  flags : Flags
  deriving DecidableEq, Repr, Inhabited

/-- The four results of a step (R400, R411). -/
inductive StepResult where
  /-- Continue -/
  | continued
  /-- Halted -/
  | halted
  /-- Paused -/
  | paused
  /-- Fault -/
  | fault
  deriving DecidableEq, Repr, Inhabited

/-- The named syscalls of R290. A starred name of the spec (FILE_*, THREAD_*, MUTEX_*, SEM_*) stands for several
operations, told apart by an index; `other` is "other named". -/
inductive Syscall where
  | exit
  | print
  | read
  | getTime
  | sleep
  | alloc
  | free
  | file (k : Nat)
  | thread (k : Nat)
  | mutex (k : Nat)
  | sem (k : Nat)
  | other (k : Nat)
  deriving DecidableEq, Repr, Inhabited

/-- What the block gives the environment on a SYSCALL (R296): the number, x[0..15], ticks and the memory view. The view is
the page table, which decides every check, and the listed bytes of the readable pages. -/
structure EnvRequest where
  number : Word
  x : Vector Word 16
  ticks : Count
  pages : Vector Byte 256
  readable : List (Nat × Byte)
  deriving DecidableEq, Repr

/-- What the environment returns (R296). A `result` lists the reads of the view that the environment made, the byte writes
it asked for and the value it returns; the block runs the checks of all of them. -/
inductive EnvOutcome where
  | result (value : Word) (reads : List (Word × Nat)) (writes : List (Word × Byte))
  | switch (ctxIn : Context)
  deriving DecidableEq, Repr, Inhabited

/-! ### Open parameters and draws (R9, 93_implementation_defined.md)

None has a body: nothing can be proved about its value, so a statement holds for every value it may have. -/

/-- SYSCALL_NUMBERS, read from number to name as R290 uses it (`SYSCALL_NUMBERS^-1`): the syscall that a number names, if
any (decision D33, entry I4). -/
opaque Config.syscallOf : Word → Option Syscall

/-- SYSCALL_ENV: the environment's answer to the call with this draw number (decision D35, entry I5). -/
opaque Config.syscallEnv : Nat → EnvRequest → EnvOutcome

/-- FP_NAN: the raw bits of one draw; `Machine.nanPattern` makes a NaN pattern of them (R330, entry I7). -/
opaque Config.fpNan : Nat → Word

/-- ICVT_INVALID: the value of one draw (R337, entry I8). -/
opaque Config.icvtInvalid : Nat → Word

/-- RESET_CLEARS_MEMORY (R470, decision D19, entry I1). -/
opaque Config.resetClearsMemory : Bool

/-- The byte that a reset which does not clear memory leaves at an address: draw number, then address (R470, entry I1). -/
opaque Config.resetByte : Nat → Nat → Byte

/-- STEP_RESULT_ENCODING: the number a step result is returned as (R400, decision D41, entry I10). -/
opaque Config.stepResultEncoding : StepResult → Word

/-- RUN_PAUSED_VALUE: what `run` returns on Paused (R412, decision D41, entry I10). -/
opaque Config.runPausedValue : Word

end Sys2Proof
end

