-- ==== Sys2Proof/WellFormed.lean ====
section
/-! DEFINITION. When an instruction, an opcode map and a set of parameters are well-formed. Register fields are bounded by
their type (R40), so an instruction is checked for the range of its immediate (R156) and for having an opcode. -/

namespace Sys2Proof

/-- The values an I immediate field can hold: -32768..32767 (R156). -/
def imm16InRange (v : Word) : Bool :=
  decide (-32768 ≤ v.toInt) && decide (v.toInt ≤ 32767)

/-- The values a J immediate field can hold: -8388608..8388607 (R156). -/
def imm24InRange (v : Word) : Bool :=
  decide (-8388608 ≤ v.toInt) && decide (v.toInt ≤ 8388607)

/-- The immediate of an instruction is one its format can hold (R156, R164). -/
def Instr.immInRange : Instr → Bool
  | .loadi _ imm => imm16InRange imm
  | .jmp target => imm24InRange target
  | .jz target => imm24InRange target
  | .jnz target => imm24InRange target
  | .call target => imm24InRange target
  | .add _ _ _ => true
  | .sub _ _ _ => true
  | .mul _ _ _ => true
  | .div _ _ _ => true
  | .mod _ _ _ => true
  | .and _ _ _ => true
  | .or _ _ _ => true
  | .xor _ _ _ => true
  | .cmp _ _ => true
  | .test _ _ => true
  | .slt _ _ _ => true
  | .sle _ _ _ => true
  | .seq _ _ _ => true
  | .sne _ _ _ => true
  | .move _ _ => true
  | .ret => true
  | .syscall => true
  | .halt => true
  | .xchg _ _ _ => true
  | .cas _ _ _ => true
  | .faddAtomic _ _ _ => true
  | .fadd _ _ _ => true
  | .fsub _ _ _ => true
  | .fmul _ _ _ => true
  | .fdiv _ _ _ => true
  | .fcmp _ _ => true
  | .fcvt _ _ => true
  | .icvt _ _ => true
  | .fmov _ _ => true
  | .vadd _ _ _ => true
  | .vsub _ _ _ => true
  | .vmul _ _ _ => true
  | .vdot _ _ _ => true

/-- An opcode map gives the operation an opcode byte. -/
def OpcodeMap.assigns (m : OpcodeMap) (op : Op) : Bool :=
  m.any fun row => row.2 == op

/-- An instruction is well-formed under an opcode map: its immediate fits its field and its operation has an opcode. -/
def Instr.wf (m : OpcodeMap) (i : Instr) : Bool :=
  i.immInRange && OpcodeMap.assigns m i.op

/-- OPCODE_MAP is injective and total (R9: "mnemonic to opcode byte, injective"): no byte and no operation stands in two
rows, and every operation has a row. -/
def OpcodeMap.wf (m : OpcodeMap) : Bool :=
  decide (m.map (·.1)).Nodup && decide (m.map (·.2)).Nodup && Op.all.all (OpcodeMap.assigns m)

/-- Two ranges of addresses share no byte. DESIGN CHOICE: R106 does not say whether an empty range (size 0) with its base
inside the other overlaps it; it shares no byte, so here it does not (log entry 14). -/
def rangesApart (base₁ size₁ base₂ size₂ : Nat) : Bool :=
  decide (size₁ = 0) || decide (size₂ = 0) || decide (base₁ + size₁ ≤ base₂) || decide (base₂ + size₂ ≤ base₁)

/-- The parameters a model accepts: the opcode map is injective and total (R9), the heap and MMIO ranges do not overlap
("A model should refuse such parameters", R106), and heap_base is a multiple of 4 (R297). -/
def Params.wf (p : Params) : Bool :=
  OpcodeMap.wf p.opcodeMap
    && rangesApart p.heapBase.toNat p.heapSize.toNat p.mmioBase.toNat p.mmioSize.toNat
    && decide (p.heapBase.toNat % 4 = 0)

end Sys2Proof
end

