-- ==== Sys2Proof/Decode.lean ====
section
/-! DEFINITION. The instruction decoder and the encoders (30_encoding.md): the opcode map, the fields of a word, the
decoder on words and on bytes, total and rejecting by name, and after it the encoders of R157. -/

namespace Sys2Proof

/-- OPCODE_MAP's default, the table of R160. -/
def defaultOpcodeMap : OpcodeMap :=
  [(0x01, .add), (0x02, .sub), (0x03, .mul), (0x04, .div), (0x05, .mod), (0x06, .and),
   (0x07, .or), (0x08, .xor), (0x09, .cmp), (0x0A, .test), (0x0B, .slt), (0x0C, .sle),
   (0x0D, .seq), (0x0E, .sne), (0x10, .loadi), (0x11, .move), (0x20, .jmp), (0x21, .jz),
   (0x22, .jnz), (0x23, .call), (0x24, .ret), (0x30, .syscall), (0x31, .halt), (0x40, .xchg),
   (0x41, .cas), (0x42, .faddAtomic), (0x50, .fadd), (0x51, .fsub), (0x52, .fmul), (0x53, .fdiv),
   (0x54, .fcmp), (0x55, .fcvt), (0x56, .icvt), (0x57, .fmov), (0x60, .vadd), (0x61, .vsub),
   (0x62, .vmul), (0x63, .vdot)]

/-- The format of each operation (R160): LOADI is I, the jumps and CALL are J, every other operation is R. -/
def Op.format : Op → Format
  | .loadi => .i
  | .jmp => .j
  | .jz => .j
  | .jnz => .j
  | .call => .j
  | .add => .r
  | .sub => .r
  | .mul => .r
  | .div => .r
  | .mod => .r
  | .and => .r
  | .or => .r
  | .xor => .r
  | .cmp => .r
  | .test => .r
  | .slt => .r
  | .sle => .r
  | .seq => .r
  | .sne => .r
  | .move => .r
  | .ret => .r
  | .syscall => .r
  | .halt => .r
  | .xchg => .r
  | .cas => .r
  | .faddAtomic => .r
  | .fadd => .r
  | .fsub => .r
  | .fmul => .r
  | .fdiv => .r
  | .fcmp => .r
  | .fcvt => .r
  | .icvt => .r
  | .fmov => .r
  | .vadd => .r
  | .vsub => .r
  | .vmul => .r
  | .vdot => .r

/-- What `decode` extracts from a word, whatever the format (R154). -/
structure Fields where
  opcode : Byte
  rd : Reg
  rs1 : Reg
  rs2 : Reg
  /-- the I immediate, sign-extended from bit 15 (R156) -/
  imm : Word
  /-- the J immediate, sign-extended from bit 23 (R156) -/
  target : Word
  /-- FORMAT(opcode); `none` is ILLEGAL -/
  fmt : Option Format
  deriving DecidableEq, Repr

/-- Why a decoder rejects its input. -/
inductive DecodeError where
  /-- the opcode byte is in no row of the opcode map (R162) -/
  | unknownOpcode (w : Word)
  /-- fewer than the 4 bytes of an instruction (R150) -/
  | truncated
  deriving DecidableEq, Repr

/-- The 4-bit field of a word whose lowest bit is `lo`, as a register index (R151). -/
def regField (w : Word) (lo : Nat) : Reg :=
  (w.extractLsb' lo 4).toFin

/-- The opcode byte of a word, bits 31:24 (R151 to R153). -/
def opcodeOf (w : Word) : Byte :=
  w.extractLsb' 24 8

/-- The operation an opcode byte selects under an opcode map, if any (R160, R162). -/
def lookupOp (m : OpcodeMap) (b : Byte) : Option Op :=
  m.lookup b

/-- `decode` of R154: every field of every format, under an opcode map. -/
def decodeFields (m : OpcodeMap) (w : Word) : Fields where
  opcode := opcodeOf w
  rd := regField w 16
  rs1 := regField w 8
  rs2 := regField w 0
  imm := (w.extractLsb' 0 16).signExtend 32
  target := (w.extractLsb' 0 24).signExtend 32
  fmt := (lookupOp m (opcodeOf w)).map Op.format

/-- The instruction an operation forms from the fields it uses, by the operand roles of R160. -/
def Op.withFields (op : Op) (d : Fields) : Instr :=
  match op with
  | .add => .add d.rd d.rs1 d.rs2
  | .sub => .sub d.rd d.rs1 d.rs2
  | .mul => .mul d.rd d.rs1 d.rs2
  | .div => .div d.rd d.rs1 d.rs2
  | .mod => .mod d.rd d.rs1 d.rs2
  | .and => .and d.rd d.rs1 d.rs2
  | .or => .or d.rd d.rs1 d.rs2
  | .xor => .xor d.rd d.rs1 d.rs2
  | .cmp => .cmp d.rs1 d.rs2
  | .test => .test d.rs1 d.rs2
  | .slt => .slt d.rd d.rs1 d.rs2
  | .sle => .sle d.rd d.rs1 d.rs2
  | .seq => .seq d.rd d.rs1 d.rs2
  | .sne => .sne d.rd d.rs1 d.rs2
  | .loadi => .loadi d.rd d.imm
  | .move => .move d.rd d.rs1
  | .jmp => .jmp d.target
  | .jz => .jz d.target
  | .jnz => .jnz d.target
  | .call => .call d.target
  | .ret => .ret
  | .syscall => .syscall
  | .halt => .halt
  | .xchg => .xchg d.rd d.rs1 d.rs2
  | .cas => .cas d.rd d.rs1 d.rs2
  | .faddAtomic => .faddAtomic d.rd d.rs1 d.rs2
  | .fadd => .fadd d.rd d.rs1 d.rs2
  | .fsub => .fsub d.rd d.rs1 d.rs2
  | .fmul => .fmul d.rd d.rs1 d.rs2
  | .fdiv => .fdiv d.rd d.rs1 d.rs2
  | .fcmp => .fcmp d.rs1 d.rs2
  | .fcvt => .fcvt d.rd d.rs1
  | .icvt => .icvt d.rd d.rs1
  | .fmov => .fmov d.rd d.rs1
  | .vadd => .vadd d.rd d.rs1 d.rs2
  | .vsub => .vsub d.rd d.rs1 d.rs2
  | .vmul => .vmul d.rd d.rs1 d.rs2
  | .vdot => .vdot d.rd d.rs1 d.rs2

/-- The decoder on one word: total, and a word outside the map is rejected by name (R154, R155, R162). -/
def decodeWord (m : OpcodeMap) (w : Word) : Except DecodeError Instr :=
  match lookupOp m (opcodeOf w) with
  | some op => .ok (op.withFields (decodeFields m w))
  | none => .error (.unknownOpcode w)

/-- The decoder on bytes: the first 4 bytes are one little-endian word (R150), and the rest is returned. -/
def decodeBytes (m : OpcodeMap) : List Byte → Except DecodeError (Instr × List Byte)
  | b0 :: b1 :: b2 :: b3 :: rest =>
    match decodeWord m (Machine.wordOfBytes b0 b1 b2 b3) with
    | .ok i => .ok (i, rest)
    | .error e => .error e
  | _ => .error .truncated

/-- The bits of a word that the decoder ignores for an operation (R155): the bits no field of the format covers, R [23:20],
[15:12], [7:4] and I [23:20], and the fields the operation does not use. -/
def Op.ignoredMask : Op → Word
  | .add => 0x00F0F0F0
  | .sub => 0x00F0F0F0
  | .mul => 0x00F0F0F0
  | .div => 0x00F0F0F0
  | .mod => 0x00F0F0F0
  | .and => 0x00F0F0F0
  | .or => 0x00F0F0F0
  | .xor => 0x00F0F0F0
  | .cmp => 0x00FFF0F0
  | .test => 0x00FFF0F0
  | .slt => 0x00F0F0F0
  | .sle => 0x00F0F0F0
  | .seq => 0x00F0F0F0
  | .sne => 0x00F0F0F0
  | .loadi => 0x00F00000
  | .move => 0x00F0F0FF
  | .jmp => 0x00000000
  | .jz => 0x00000000
  | .jnz => 0x00000000
  | .call => 0x00000000
  | .ret => 0x00FFFFFF
  | .syscall => 0x00FFFFFF
  | .halt => 0x00FFFFFF
  | .xchg => 0x00F0F0F0
  | .cas => 0x00F0F0F0
  | .faddAtomic => 0x00F0F0F0
  | .fadd => 0x00F0F0F0
  | .fsub => 0x00F0F0F0
  | .fmul => 0x00F0F0F0
  | .fdiv => 0x00F0F0F0
  | .fcmp => 0x00FFF0F0
  | .fcvt => 0x00F0F0FF
  | .icvt => 0x00F0F0FF
  | .fmov => 0x00F0F0FF
  | .vadd => 0x00F0F0F0
  | .vsub => 0x00F0F0F0
  | .vmul => 0x00F0F0F0
  | .vdot => 0x00F0F0F0

/-! ### Encoders (R157) -/

/-- `encode_r`: each argument is cut to its field width, every other bit is zero. -/
def encodeR (op rd rs1 rs2 : Nat) : Word :=
  ((BitVec.ofNat 8 op).setWidth 32 <<< 24) ||| ((BitVec.ofNat 4 rd).setWidth 32 <<< 16)
    ||| ((BitVec.ofNat 4 rs1).setWidth 32 <<< 8) ||| (BitVec.ofNat 4 rs2).setWidth 32

/-- `encode_i`: each argument is cut to its field width, every other bit is zero. -/
def encodeI (op rd : Nat) (imm : Int) : Word :=
  ((BitVec.ofNat 8 op).setWidth 32 <<< 24) ||| ((BitVec.ofNat 4 rd).setWidth 32 <<< 16)
    ||| (BitVec.ofInt 16 imm).setWidth 32

/-- `encode_j`: each argument is cut to its field width. -/
def encodeJ (op : Nat) (imm : Int) : Word :=
  ((BitVec.ofNat 8 op).setWidth 32 <<< 24) ||| (BitVec.ofInt 24 imm).setWidth 32

/-- The opcode byte a map gives an operation (0 where it gives none: such an operation is not well-formed). -/
def opcodeByte (m : OpcodeMap) (op : Op) : Byte :=
  match m.find? (fun row => row.2 == op) with
  | some row => row.1
  | none => 0

/-- The canonical word of an instruction under an opcode map: unused fields and bits are zero (R155, R157). -/
def encode (m : OpcodeMap) (i : Instr) : Word :=
  let op := (opcodeByte m i.op).toNat
  match i with
  | .add rd rs1 rs2 => encodeR op rd rs1 rs2
  | .sub rd rs1 rs2 => encodeR op rd rs1 rs2
  | .mul rd rs1 rs2 => encodeR op rd rs1 rs2
  | .div rd rs1 rs2 => encodeR op rd rs1 rs2
  | .mod rd rs1 rs2 => encodeR op rd rs1 rs2
  | .and rd rs1 rs2 => encodeR op rd rs1 rs2
  | .or rd rs1 rs2 => encodeR op rd rs1 rs2
  | .xor rd rs1 rs2 => encodeR op rd rs1 rs2
  | .cmp rs1 rs2 => encodeR op 0 rs1 rs2
  | .test rs1 rs2 => encodeR op 0 rs1 rs2
  | .slt rd rs1 rs2 => encodeR op rd rs1 rs2
  | .sle rd rs1 rs2 => encodeR op rd rs1 rs2
  | .seq rd rs1 rs2 => encodeR op rd rs1 rs2
  | .sne rd rs1 rs2 => encodeR op rd rs1 rs2
  | .loadi rd imm => encodeI op rd imm.toInt
  | .move rd rs1 => encodeR op rd rs1 0
  | .jmp target => encodeJ op target.toInt
  | .jz target => encodeJ op target.toInt
  | .jnz target => encodeJ op target.toInt
  | .call target => encodeJ op target.toInt
  | .ret => encodeR op 0 0 0
  | .syscall => encodeR op 0 0 0
  | .halt => encodeR op 0 0 0
  | .xchg rd rs1 rs2 => encodeR op rd rs1 rs2
  | .cas rd rs1 rs2 => encodeR op rd rs1 rs2
  | .faddAtomic rd rs1 rs2 => encodeR op rd rs1 rs2
  | .fadd rd rs1 rs2 => encodeR op rd rs1 rs2
  | .fsub rd rs1 rs2 => encodeR op rd rs1 rs2
  | .fmul rd rs1 rs2 => encodeR op rd rs1 rs2
  | .fdiv rd rs1 rs2 => encodeR op rd rs1 rs2
  | .fcmp rs1 rs2 => encodeR op 0 rs1 rs2
  | .fcvt rd rs1 => encodeR op rd rs1 0
  | .icvt rd rs1 => encodeR op rd rs1 0
  | .fmov rd rs1 => encodeR op rd rs1 0
  | .vadd rd rs1 rs2 => encodeR op rd rs1 rs2
  | .vsub rd rs1 rs2 => encodeR op rd rs1 rs2
  | .vmul rd rs1 rs2 => encodeR op rd rs1 rs2
  | .vdot rd rs1 rs2 => encodeR op rd rs1 rs2

/-- The instruction the decoder reads, under the default opcode map, from the table's numbering of its bits: the word's 4
bytes are laid out little-endian (R150) and given to the decoder. Every bit from `nbits` up is 0. -/
def decodeTableWord (nbits w : Nat) : Option Instr :=
  match decodeBytes defaultOpcodeMap (Machine.bytesOfWord (BitVec.ofNat 32 (w % 2 ^ nbits))) with
  | .ok (i, _) => some i
  | .error _ => none

end Sys2Proof
end

