-- ==== Sys2Proof/Machine/PageTable.lean ====
section
/-! DEFINITION. The page table and the access check (20_memory.md R102 to R117), and the default parameters (R9) with the
page map they install. -/

namespace Sys2Proof.Machine

/-- PT[0..255]: one 8-bit entry per 256-byte page (R52). -/
abbrev PageTable := Vector Byte 256

/-! ### Entries (R103) -/

/-- Bit 0, READ. -/
def pageReadable (e : Byte) : Bool := e.getLsbD 0

/-- Bit 1, WRITE. -/
def pageWritable (e : Byte) : Bool := e.getLsbD 1

/-- Bit 2, EXEC. -/
def pageExecutable (e : Byte) : Bool := e.getLsbD 2

/-- Bit 3, PRESENT. -/
def pagePresent (e : Byte) : Bool := e.getLsbD 3

/-- PT[p]. The walker is this single lookup (R102). -/
def pageEntry (pt : PageTable) (p : Nat) : Byte := pt[Fin.ofNat 256 p]

/-! ### Access kinds (R104) and reasons (R110) -/

/-- The kinds of access of R104. -/
inductive AccessKind where
  /-- instruction fetch -/
  | fetch
  /-- environment read on SYSCALL, host `read_memory` -/
  | read
  /-- environment write on SYSCALL, host `write_memory` -/
  | write
  /-- atomic read-modify-write -/
  | rmw
  /-- CALL push -/
  | push
  /-- RET pop -/
  | pop
  /-- interrupt-dispatch push, for the vector being dispatched -/
  | irqPush (irq : Irq)
  /-- host `load_program` -/
  | load
  deriving DecidableEq, Repr

/-- The code of an access kind in the fault record (R422). -/
def AccessKind.code : AccessKind → Byte
  | .fetch => 1
  | .read => 2
  | .write => 3
  | .rmw => 4
  | .push => 5
  | .pop => 6
  | .irqPush _ => 7
  | .load => 8

/-- The kinds that need READ (R104). -/
def AccessKind.needsRead : AccessKind → Bool
  | .fetch => true
  | .read => true
  | .write => false
  | .rmw => true
  | .push => false
  | .pop => true
  | .irqPush _ => false
  | .load => false

/-- The kinds that need WRITE (R104). -/
def AccessKind.needsWrite : AccessKind → Bool
  | .fetch => false
  | .read => false
  | .write => true
  | .rmw => true
  | .push => true
  | .pop => false
  | .irqPush _ => true
  | .load => false

/-- The kinds that need EXEC (R104). -/
def AccessKind.needsExec : AccessKind → Bool
  | .fetch => true
  | .read => false
  | .write => false
  | .rmw => false
  | .push => false
  | .pop => false
  | .irqPush _ => false
  | .load => false

/-- Why an access check fails (R110). -/
inductive Reason where
  | range
  | notPresent
  | permission
  deriving DecidableEq, Repr

/-- The code of a reason in the fault record (R422). -/
def Reason.code : Reason → Byte
  | .range => 1
  | .notPresent => 2
  | .permission => 3

/-! ### The access check (R110) -/

/-- What one page entry answers to an access of kind `k`: PRESENT is tested first, then the permissions (R110). -/
def pageReason (k : AccessKind) (e : Byte) : Option Reason :=
  if !pagePresent e then some .notPresent
  else if k.needsRead && !pageReadable e then some .permission
  else if k.needsWrite && !pageWritable e then some .permission
  else if k.needsExec && !pageExecutable e then some .permission
  else none

/-- The pages that the bytes `a .. a+n-1` touch, ascending, for n ≥ 1 (R110). -/
def pagesTouched (a n : Nat) : List Nat :=
  List.range' (a / pageSize) ((a + n - 1) / pageSize - a / pageSize + 1)

/-- `Check(K, a, n, P)` with the P that R104 gives K: `none` where the check passes. The sum is exact. R110 lets a
host access of no byte pass with no page read. DESIGN CHOICE (unsafe, log entry 5): a read of no byte by the environment, on
which R110 and R296 say nothing, passes as well, at any address. An instruction's access is of 4 bytes (R109). -/
def checkAccess (pt : PageTable) (k : AccessKind) (a : Word) (n : Nat) : Option Reason :=
  if n = 0 then none
  else if memSize < a.toNat + n then some .range
  else (pagesTouched a.toNat n).findSome? fun p => pageReason k (pageEntry pt p)

/-! ### The default page map (R106) and the default parameters (R9) -/

/-- The first byte of page `p` lies in the range of `size` bytes at `base`. -/
def pageIn (p : Nat) (base size : Word) : Bool :=
  decide (base.toNat ≤ p * pageSize) && decide (p * pageSize < base.toNat + size.toNat)

/-- The entry `init` gives page `p` (R106). The assignments of R106 are tested last one first: the stack region, then MMIO
("the MMIO assignment wins"), then the heap, then the code region. -/
def defaultPageEntry (prm : Params) (p : Nat) : Byte :=
  if 0xE0 ≤ p then 0x0B
  else if pageIn p prm.mmioBase prm.mmioSize then 0x00
  else if pageIn p prm.heapBase prm.heapSize then 0x0B
  else if p ≤ 0x3F then 0x0D
  else 0x00

/-- The default page map (R106). -/
def defaultPages (prm : Params) : PageTable :=
  ⟨⟨(List.range 256).map (defaultPageEntry prm)⟩, by simp⟩

/-- The defaults of the parameters that have one (R9). -/
def defaultParams : Params where
  opcodeMap := defaultOpcodeMap
  jTargetMode := .absolute
  spReset := 0x00010000
  heapBase := 0x4000
  heapSize := 0x8000
  mmioBase := 0xC000
  mmioSize := 0x2000

end Sys2Proof.Machine
end

