-- ==== Sys2Proof/Machine/State.lean ====
section
/-! DEFINITION. The machine's state (10_state.md), the ways a step can stop, and the state after reset (R60, R470). -/

namespace Sys2Proof.Machine

/-- Memory as a list of (address, byte) pairs (R100). Canonical form: addresses strictly rising and below MEM_SIZE, and no
entry equal to `unlistedByte`. -/
abbrev Memory := List Host.Cell

/-- One interrupt vector (R53). -/
structure IrqVector where
  handlerAddr : Word
  enabled : Bool
  pending : Bool
  deriving DecidableEq, Repr

/-- `fault_info` (R51), with the codes of R422. -/
structure FaultInfo where
  kind : Byte
  addr : Word
  len : Word
  reason : Byte
  word : Word
  deriving DecidableEq, Repr

/-- The state of the block (R40 to R60), the step-local values that R401 and R411 name, the parameters of R9, and one field
of the model's own (`draws`). -/
structure State where
  /-- x[0..15] (R40) -/
  regs : Vector Word 16
  /-- (R43) -/
  pc : Word
  /-- (R44) -/
  sp : Word
  /-- (R45) -/
  fp : Word
  /-- The four flag bits; the other bits of the register read 0 (R46) -/
  flags : Flags
  /-- (R49) -/
  halted : Bool
  /-- (R50) -/
  exitCode : Word
  /-- (R51) -/
  faulted : Bool
  /-- (R51, R421) -/
  faultCause : Byte
  /-- (R51, R422) -/
  faultInfo : FaultInfo
  /-- MEM (R100) -/
  mem : Memory
  /-- PT (R52) -/
  pages : PageTable
  /-- (R53) -/
  irqGlobalEnable : Bool
  /-- (R53) -/
  vec : Vector IrqVector 32
  /-- (R54) -/
  dbgEnabled : Bool
  /-- (R54) -/
  singleStep : Bool
  /-- A set of at most 16 addresses (R54), as a list without repeats -/
  breakpoints : List Word
  /-- (R55) -/
  breakRequest : Bool
  /-- (R56) -/
  instructionCount : Count
  /-- (R56) -/
  cycleCount : Count
  /-- (R56) -/
  ticks : Count
  /-- (R57) -/
  heapBase : Word
  /-- (R57) -/
  heapSize : Word
  /-- (R57) -/
  heapUsed : Word
  /-- The step-local signal of R15, which lives only for one step (R59) -/
  pcWritten : Bool
  /-- The word `w` of R401 that the step fetched; the fault record takes its word from here (R422) -/
  ir : Word
  /-- The result of the latest step (R411): `none` before the first step and while a step runs -/
  result : Option StepResult
  /-- The context most recently handed to the environment by a Switch outcome (R296) -/
  handedContext : Option Context
  /-- The parameters of R9 that have a default -/
  params : Params
  /-- The MODEL's own field: how many values have been drawn. The next draw is an opaque constant of Config applied to it -/
  draws : Nat
  deriving DecidableEq, Repr

/-- Why the model would stop at a fault. There is no constructor: every fault the spec names (R421) is recorded in the
state and surfaces as the step's result while the machine goes on (R400, R420), so no step of this model ends in a fault. -/
inductive Fault where
  deriving DecidableEq, Repr

/-- Why the model would refuse an instruction. -/
inductive Refusal where
  /-- Raised by `exec` alone, for an instruction whose meaning is not written yet; safe, since nothing follows from it. No
  arm of this model raises it. -/
  | notModelled (mnemonic : String)
  deriving DecidableEq, Repr

/-- The state `create` leaves for parameters `prm`: every bit is 0 (R470), memory lists nothing. -/
def State.created (prm : Params) : State where
  regs := Vector.replicate 16 0
  pc := 0
  sp := 0
  fp := 0
  flags := ⟨false, false, false, false⟩
  halted := false
  exitCode := 0
  faulted := false
  faultCause := 0
  faultInfo := ⟨0, 0, 0, 0, 0⟩
  mem := []
  pages := Vector.replicate 256 0
  irqGlobalEnable := false
  vec := Vector.replicate 32 ⟨0, false, false⟩
  dbgEnabled := false
  singleStep := false
  breakpoints := []
  breakRequest := false
  instructionCount := 0
  cycleCount := 0
  ticks := 0
  heapBase := 0
  heapSize := 0
  heapUsed := 0
  pcWritten := false
  ir := 0
  result := none
  handedContext := none
  params := prm
  draws := 0

/-- `init`, line by line as R470 writes it, but for its last line, the memory bytes, which stay as they are here. The
step-local values return to their values after `create`; `params` and the model's `draws` are kept. -/
def State.init (s : State) : State :=
  { s with
    regs := Vector.replicate 16 0
    pc := 0
    sp := s.params.spReset
    fp := 0
    flags := ⟨false, false, false, false⟩
    halted := false
    exitCode := 0
    faulted := false
    faultCause := 0
    faultInfo := ⟨0, 0, 0, 0, 0⟩
    pages := defaultPages s.params
    irqGlobalEnable := false
    vec := Vector.replicate 32 ⟨0, false, false⟩
    dbgEnabled := false
    singleStep := false
    breakpoints := []
    breakRequest := false
    instructionCount := 0
    cycleCount := 0
    ticks := 0
    heapBase := s.params.heapBase
    heapSize := s.params.heapSize
    heapUsed := 0
    pcWritten := false
    ir := 0
    result := none
    handedContext := none }

/-- The machine right after reset: `create` and then `init`, at the default parameters (R60, R470). Memory is all zero,
as `create` leaves it. -/
def State.reset : State := (State.created defaultParams).init

end Sys2Proof.Machine
end

