-- ==== Sys2Proof/Machine/Ops.lean ====
section
/-! DEFINITION. The named operations over registers and memory, the recording of a fault, the stack operations, and entering
an interrupt handler. -/

namespace Sys2Proof.Machine

/-! ### Memory bytes (R100, R108, R111) -/

/-- What a byte of memory that is not listed reads as: `create` zeroes memory (R60, R470). -/
def unlistedByte : Byte := 0

/-- The byte at an address. -/
def memRead : Memory → Nat → Byte
  | [], _ => unlistedByte
  | (b, v) :: rest, a => if a = b then v else memRead rest a

/-- The entry for a byte: none where the byte reads the same unlisted. -/
def memCell (a : Nat) (v : Byte) : Memory :=
  if v = unlistedByte then [] else [(a, v)]

/-- Memory with one byte replaced, in its place in the rising order. -/
def memInsert : Memory → Nat → Byte → Memory
  | [], a, v => memCell a v
  | (b, w) :: rest, a, v =>
    if a < b then memCell a v ++ (b, w) :: rest
    else if a = b then memCell a v ++ rest
    else (b, w) :: memInsert rest a v

/-- One byte written. The array has no element at MEM_SIZE or above, so nothing is written there (R100). -/
def memWrite (m : Memory) (a : Nat) (v : Byte) : Memory :=
  if a < memSize then memInsert m a v else m

/-- Bytes written at rising addresses from `a`. -/
def memWriteBytes : Memory → Nat → List Byte → Memory
  | m, _, [] => m
  | m, a, v :: vs => memWriteBytes (memWrite m a v) (a + 1) vs

/-- `n` bytes read from `a` up. -/
def memReadBytes (m : Memory) (a n : Nat) : List Byte :=
  (List.range' a n).map (memRead m)

/-- The canonical form of memory: addresses strictly rising and below MEM_SIZE, no entry equal to `unlistedByte`. -/
abbrev memWf (m : Memory) : Prop :=
  m.Pairwise (fun p q => p.1 < q.1) ∧ ∀ p ∈ m, p.1 < memSize ∧ p.2 ≠ unlistedByte

/-- The canonical memory that holds `f a` at each address `a`. -/
def memOfBytes (f : Nat → Byte) : Memory :=
  (List.range memSize).filterMap fun a => if f a = unlistedByte then none else some (a, f a)

/-! ### Registers (R12) -/

/-- `x[i]` (R12, R40). -/
def State.reg (s : State) (r : Reg) : Word := s.regs[r]

/-- `x[i] <- v` (R12, R40). -/
def State.setReg (s : State) (r : Reg) (v : Word) : State :=
  { s with regs := s.regs.set r v }

/-- `pc <- t` inside an instruction, which sets `pc_written` too (R15). -/
def State.jump (s : State) (t : Word) : State :=
  { s with pc := t, pcWritten := true }

/-- `sp <- v` (R12). -/
def State.setSp (s : State) (v : Word) : State := { s with sp := v }

/-- The four flags written together. -/
def State.setFlags (s : State) (f : Flags) : State := { s with flags := f }

/-- MEM replaced. -/
def State.setMem (s : State) (m : Memory) : State := { s with mem := m }

/-- One value drawn: the draw counter moves on. -/
def State.drawn (s : State) : State := { s with draws := s.draws + 1 }

/-! ### Memory words (R13) -/

/-- One byte of MEM. -/
def State.byte (s : State) (a : Nat) : Byte := memRead s.mem a

/-- `MEM32[a]`, little-endian, with no check (R13). -/
def State.loadWord (s : State) (a : Word) : Word :=
  wordOfBytes (s.byte a.toNat) (s.byte (a.toNat + 1)) (s.byte (a.toNat + 2)) (s.byte (a.toNat + 3))

/-- `MEM32[a] <- v`, little-endian, with no check (R13). -/
def State.storeWord (s : State) (a v : Word) : State :=
  s.setMem (memWriteBytes s.mem a.toNat (bytesOfWord v))

/-- `Check(K, a, n, P)` against the page table as it stands (R13, R110, R117). -/
def State.check (s : State) (k : AccessKind) (a : Word) (n : Nat) : Option Reason :=
  checkAccess s.pages k a n

/-! ### Faults (R420 to R422) -/

/-- Which integer division raised an ArithmeticFault (R422). -/
inductive Division where
  | div
  | mod
  deriving DecidableEq, Repr

/-- The kind code of an ArithmeticFault (R422). -/
def Division.code : Division → Byte
  | .div => 9
  | .mod => 10

/-- The faults a step raises (R421). -/
inductive Exc where
  /-- MemoryFault(kind, addr, len, reason) -/
  | memory (kind : AccessKind) (addr : Word) (len : Nat) (reason : Reason)
  /-- ArithmeticFault(DIV or MOD) -/
  | arithmetic (which : Division)
  /-- IllegalOpcode -/
  | illegalOpcode
  deriving DecidableEq, Repr

/-- `code(E)` (R421). -/
def Exc.cause : Exc → Byte
  | .memory _ _ _ _ => 1
  | .arithmetic _ => 2
  | .illegalOpcode => 3

/-- The `word` of a MemoryFault: 0 for FETCH, the vector number for IRQ_PUSH, else the instruction word (R422). -/
def memoryFaultWord (k : AccessKind) (ir : Word) : Word :=
  match k with
  | .fetch => 0
  | .irqPush i => BitVec.ofNat 32 i.val
  | .read => ir
  | .write => ir
  | .rmw => ir
  | .push => ir
  | .pop => ir
  | .load => ir

/-- `info(E)` for a fault of the instruction at `pc` with word `ir` (R422). -/
def Exc.info (pc ir : Word) : Exc → FaultInfo
  | .memory k a n r => ⟨k.code, a, BitVec.ofNat 32 n, r.code, memoryFaultWord k ir⟩
  | .arithmetic d => ⟨d.code, pc, 0, 4, ir⟩
  | .illegalOpcode => ⟨11, pc, 0, 5, ir⟩

/-- Taking a fault: `faulted`, `fault_cause` and `fault_info` are recorded and the step's result is Fault (R14, R420).
Nothing else changes: `halted` is not set, no handler is entered and no state is pushed. -/
def State.raise (s : State) (e : Exc) : State :=
  { s with faulted := true, faultCause := e.cause, faultInfo := e.info s.pc s.ir, result := some .fault }

/-- The state after a part of an instruction that may raise: its own state, or `s` with the fault recorded (R14). -/
def State.orRaise (s : State) : Except Exc State → State
  | .ok t => t
  | .error e => s.raise e

/-! ### The stack (R264, R265, R433) -/

/-- A push of one word at sp - 4: the check comes before any write (R264, R433). -/
def State.push (s : State) (k : AccessKind) (v : Word) : Except Exc State :=
  match s.check k (s.sp - 4) 4 with
  | some r => .error (.memory k (s.sp - 4) 4 r)
  | none => .ok ((s.storeWord (s.sp - 4) v).setSp (s.sp - 4))

/-- The return that RET makes, from a subroutine or from an interrupt handler: the word at sp is popped into pc (R265,
R435). -/
def State.popReturn (s : State) : Except Exc State :=
  match s.check .pop s.sp 4 with
  | some r => .error (.memory .pop s.sp 4 r)
  | none => .ok ((s.setSp (s.sp + 4)).jump (s.loadWord s.sp))

/-- Entering the handler of vector `i` after the push: pc is the handler address and the vector is no longer pending
(R433). -/
def State.enterHandler (s : State) (i : Irq) : State :=
  { s with pc := s.vec[i].handlerAddr, vec := s.vec.set i { s.vec[i] with pending := false } }

/-! ### Read-modify-write (R310 to R313) -/

/-- The read of an atomic instruction's cell, after its one check (R104, R310). -/
def State.readCell (s : State) (a : Word) : Except Exc Word :=
  match s.check .rmw a 4 with
  | some r => .error (.memory .rmw a 4 r)
  | none => .ok (s.loadWord a)

end Sys2Proof.Machine
end

