-- ==== Sys2Proof/Machine/Flags.lean ====
section
/-! DEFINITION. The flag functions (R200), the flags each instruction writes (R48), and the packed register (R46). -/

namespace Sys2Proof.Machine

/-! ### R200 -/

/-- Unsigned carry out of bit 31 of an add, from the exact sum. -/
def addC (a b : Word) : Bool := decide (2 ^ 32 ≤ a.toNat + b.toNat)

/-- Signed overflow of an add: the sign of both operands differs from the result's. -/
def addV (a b r : Word) : Bool := ((a ^^^ r) &&& (b ^^^ r)).getLsbD 31

/-- Unsigned borrow of a subtract. -/
def subC (a b : Word) : Bool := decide (a.toNat < b.toNat)

/-- Signed overflow of a subtract: the operands differ in sign and the result differs from the first. -/
def subV (a b r : Word) : Bool := ((a ^^^ b) &&& (a ^^^ r)).getLsbD 31

/-- `setZN(r)` together with the C and V an instruction gives. -/
def flagsOf (r : Word) (c v : Bool) : Flags where
  z := decide (r = 0)
  c := c
  n := r.getLsbD 31
  v := v

/-! ### The flags of each writer (R48) -/

/-- ADD (R201). -/
def addFlags (a b : Word) : Flags := flagsOf (a + b) (addC a b) (addV a b (a + b))

/-- SUB and CMP (R202, R211). -/
def subFlags (a b : Word) : Flags := flagsOf (a - b) (subC a b) (subV a b (a - b))

/-- MUL: C is "high half nonzero" of the exact unsigned product, V is 0 (R203). -/
def mulFlags (a b : Word) : Flags :=
  flagsOf (BitVec.ofNat 32 (a.toNat * b.toNat)) (decide (a.toNat * b.toNat / 2 ^ 32 ≠ 0)) false

/-- DIV and MOD with a nonzero divisor, AND, OR, XOR and TEST: C and V are 0 (R204, R205, R208 to R210, R212). -/
def plainFlags (r : Word) : Flags := flagsOf r false false

/-! ### The packed register (R46, R47) -/

/-- The 32-bit value of `flags`: Z, C, N, V in bits 0 to 3, the other bits 0. -/
def packFlags (f : Flags) : Word :=
  (if f.z then 1 else 0) ||| (if f.c then 2 else 0) ||| (if f.n then 4 else 0) ||| (if f.v then 8 else 0)

/-- `set_flags(v)` stores v[3:0]; the other bits are ignored. -/
def unpackFlags (v : Word) : Flags where
  z := v.getLsbD 0
  c := v.getLsbD 1
  n := v.getLsbD 2
  v := v.getLsbD 3

end Sys2Proof.Machine
end

