-- ==== Sys2Proof/Machine/Operands.lean ====
section
/-! DEFINITION. The operand forms: how an instruction's operands become values and how a result is written. Every source
is read from the state before the write (R12). -/

namespace Sys2Proof.Machine

/-- The outcome of every meaning. -/
abbrev Result := Host.Outcome State Fault Refusal

/-- The form `MNEM rd, rs1, rs2` with no flags written: rd gets `f` of the two sources. -/
def writeBinary (f : Word → Word → Word) (rd rs1 rs2 : Reg) (s : State) : State :=
  s.setReg rd (f (s.reg rs1) (s.reg rs2))

/-- The form `MNEM rd, rs1, rs2` with flags written: rd gets `f` and the flags get `g` of the two sources. -/
def writeBinaryFlags (f : Word → Word → Word) (g : Word → Word → Flags) (rd rs1 rs2 : Reg) (s : State) : State :=
  (s.setReg rd (f (s.reg rs1) (s.reg rs2))).setFlags (g (s.reg rs1) (s.reg rs2))

/-- The form `MNEM rs1, rs2`: only the flags are written. -/
def writeFlags (g : Word → Word → Flags) (rs1 rs2 : Reg) (s : State) : State :=
  s.setFlags (g (s.reg rs1) (s.reg rs2))

/-- The form `MNEM rd, rs1`: rd gets `f` of the source. -/
def writeUnary (f : Word → Word) (rd rs1 : Reg) (s : State) : State :=
  s.setReg rd (f (s.reg rs1))

/-- rd gets a result that may be a draw: `none` is the draw `free`, and it moves the draw counter on. -/
def writeOrDraw (rd : Reg) (free : Word) (r : Option Word) (s : State) : State :=
  match r with
  | some v => s.setReg rd v
  | none => (s.setReg rd free).drawn

/-- The J-format target T for an immediate, under J_TARGET_MODE (R260). pc is the address of the jump itself. -/
def jumpTarget (s : State) (imm : Word) : Word :=
  match s.params.jTargetMode with
  | .absolute => imm
  | .pcRelative => s.pc + imm

/-- `zext_32(bool(c))` (R11). -/
def boolWord (c : Bool) : Word := if c then 1 else 0

end Sys2Proof.Machine
end

