-- ==== Sys2Proof/Machine/Alu.lean ====
section
/-! DEFINITION. The integer ALU instructions (40_alu.md R201 to R216). -/

namespace Sys2Proof.Machine

/-- ADD (R201). -/
def execAdd (rd rs1 rs2 : Reg) (s : State) : Result :=
  .next (writeBinaryFlags (fun a b => a + b) addFlags rd rs1 rs2 s)

/-- SUB (R202). -/
def execSub (rd rs1 rs2 : Reg) (s : State) : Result :=
  .next (writeBinaryFlags (fun a b => a - b) subFlags rd rs1 rs2 s)

/-- MUL: the low word of the exact unsigned product (R203). -/
def execMul (rd rs1 rs2 : Reg) (s : State) : Result :=
  .next (writeBinaryFlags (fun a b => BitVec.ofNat 32 (a.toNat * b.toNat)) mulFlags rd rs1 rs2 s)

/-- What DIV and MOD share: a zero divisor zeroes rd and then raises (R204, R205); otherwise rd gets `f` of the unsigned
operands. -/
def divide (which : Division) (f : Nat → Nat → Nat) (rd rs1 rs2 : Reg) (s : State) : State :=
  let a := s.reg rs1
  let b := s.reg rs2
  if b.toNat = 0 then (s.setReg rd 0).raise (.arithmetic which)
  else
    let q := BitVec.ofNat 32 (f a.toNat b.toNat)
    (s.setReg rd q).setFlags (plainFlags q)

/-- DIV (R204). -/
def execDiv (rd rs1 rs2 : Reg) (s : State) : Result :=
  .next (divide .div (fun a b => a / b) rd rs1 rs2 s)

/-- MOD (R205). -/
def execMod (rd rs1 rs2 : Reg) (s : State) : Result :=
  .next (divide .mod (fun a b => a % b) rd rs1 rs2 s)

/-- AND (R208). -/
def execAnd (rd rs1 rs2 : Reg) (s : State) : Result :=
  .next (writeBinaryFlags (fun a b => a &&& b) (fun a b => plainFlags (a &&& b)) rd rs1 rs2 s)

/-- OR (R209). -/
def execOr (rd rs1 rs2 : Reg) (s : State) : Result :=
  .next (writeBinaryFlags (fun a b => a ||| b) (fun a b => plainFlags (a ||| b)) rd rs1 rs2 s)

/-- XOR (R210). -/
def execXor (rd rs1 rs2 : Reg) (s : State) : Result :=
  .next (writeBinaryFlags (fun a b => a ^^^ b) (fun a b => plainFlags (a ^^^ b)) rd rs1 rs2 s)

/-- CMP (R211). -/
def execCmp (rs1 rs2 : Reg) (s : State) : Result :=
  .next (writeFlags subFlags rs1 rs2 s)

/-- TEST (R212). -/
def execTest (rs1 rs2 : Reg) (s : State) : Result :=
  .next (writeFlags (fun a b => plainFlags (a &&& b)) rs1 rs2 s)

/-- SLT, signed (R213). -/
def execSlt (rd rs1 rs2 : Reg) (s : State) : Result :=
  .next (writeBinary (fun a b => boolWord (decide (a.toInt < b.toInt))) rd rs1 rs2 s)

/-- SLE, signed (R214). -/
def execSle (rd rs1 rs2 : Reg) (s : State) : Result :=
  .next (writeBinary (fun a b => boolWord (decide (a.toInt ≤ b.toInt))) rd rs1 rs2 s)

/-- SEQ (R215). -/
def execSeq (rd rs1 rs2 : Reg) (s : State) : Result :=
  .next (writeBinary (fun a b => boolWord (decide (a = b))) rd rs1 rs2 s)

/-- SNE (R216). -/
def execSne (rd rs1 rs2 : Reg) (s : State) : Result :=
  .next (writeBinary (fun a b => boolWord (decide (a ≠ b))) rd rs1 rs2 s)

end Sys2Proof.Machine
end

