-- ==== Sys2Proof/Machine/Atomic.lean ====
section
/-! DEFINITION. The atomic memory instructions (44_atomic.md R310 to R313). Sources are read before any write (R12), and
the one check comes before the first write (R14). -/

namespace Sys2Proof.Machine

/-- A read-modify-write of the cell at x[rs1]: `f` makes the next state of the old word, unless the check raises. -/
def readModifyWrite (rs1 : Reg) (f : Word → State) (s : State) : State :=
  match s.readCell (s.reg rs1) with
  | .error e => s.raise e
  | .ok old => f old

/-- XCHG (R310). -/
def execXchg (rd rs1 rs2 : Reg) (s : State) : Result :=
  .next (readModifyWrite rs1 (fun old => (s.storeWord (s.reg rs1) (s.reg rs2)).setReg rd old) s)

/-- CAS (R311). -/
def execCas (rd rs1 rs2 : Reg) (s : State) : Result :=
  .next (readModifyWrite rs1 (fun old =>
    if old = s.reg rd then (s.storeWord (s.reg rs1) (s.reg rs2)).setReg rd 1 else s.setReg rd 0) s)

/-- FADD_ATOMIC, an integer add (R312). -/
def execFaddAtomic (rd rs1 rs2 : Reg) (s : State) : Result :=
  .next (readModifyWrite rs1 (fun old => (s.storeWord (s.reg rs1) (old + s.reg rs2)).setReg rd old) s)

end Sys2Proof.Machine
end

