-- ==== Sys2Proof/Machine/ControlTransfer.lean ====
section
/-! DEFINITION. The control transfer instructions (42_control.md R261 to R266). A target is not checked here: a bad one
faults at the next fetch (R260). -/

namespace Sys2Proof.Machine

/-- JMP (R261). -/
def execJmp (target : Word) (s : State) : Result :=
  .next (s.jump (jumpTarget s target))

/-- JZ (R262). -/
def execJz (target : Word) (s : State) : Result :=
  .next (if s.flags.z then s.jump (jumpTarget s target) else s)

/-- JNZ (R263). -/
def execJnz (target : Word) (s : State) : Result :=
  .next (if s.flags.z then s else s.jump (jumpTarget s target))

/-- What CALL does: push the address of the next instruction, then jump (R264). -/
def callTo (s : State) (target : Word) : Except Exc State :=
  match s.push .push (s.pc + 4) with
  | .error e => .error e
  | .ok t => .ok (t.jump target)

/-- CALL (R264). -/
def execCall (target : Word) (s : State) : Result :=
  .next (s.orRaise (callTo s (jumpTarget s target)))

/-- RET (R265). -/
def execRet (s : State) : Result :=
  .next (s.orRaise s.popReturn)

/-- HALT (R266). -/
def execHalt (s : State) : Result :=
  .next { s with halted := true }

end Sys2Proof.Machine
end

