-- ==== Sys2Proof/Machine/DataMove.lean ====
section
/-! DEFINITION. The data movement instructions (41_data_move.md R240, R241). -/

namespace Sys2Proof.Machine

/-- LOADI (R240). The immediate is already sign-extended (R156). -/
def execLoadi (rd : Reg) (imm : Word) (s : State) : Result :=
  .next (s.setReg rd imm)

/-- MOVE (R241). -/
def execMove (rd rs1 : Reg) (s : State) : Result :=
  .next (writeUnary (fun a => a) rd rs1 s)

end Sys2Proof.Machine
end

