-- ==== Sys2Proof/Machine/Binary32.lean ====
section
/-! DEFINITION. IEEE 754 binary32 arithmetic on bit patterns, round to nearest, ties to even, subnormals kept (45_float.md
R330). Every finite binary32 value is an integer number of units of 2^-149, so an operation is computed exactly on integers
and rounded once. The operations themselves are those of IEEE 754 (entries G1 and G2). -/

namespace Sys2Proof.Machine

/-- The value of a pattern: not a number, an infinity, or a sign and a magnitude in units of 2^-149. -/
inductive Binary32 where
  | nan
  | inf (neg : Bool)
  | finite (neg : Bool) (units : Nat)
  deriving DecidableEq, Repr

/-- Bit 31 (R330). -/
def signBit (v : Word) : Bool := v.getLsbD 31

/-- Bits 30:23 (R330). -/
def exponentField (v : Word) : Nat := (v.extractLsb' 23 8).toNat

/-- Bits 22:0 (R330). -/
def fractionField (v : Word) : Nat := (v.extractLsb' 0 23).toNat

/-- `F(v)`: the value of a pattern (R330). With exponent field 0 the fraction counts units; with exponent field e ≥ 1 the
fraction and its hidden bit count units of 2^(e-1). -/
def valueOf (v : Word) : Binary32 :=
  if exponentField v = 255 then
    if fractionField v = 0 then .inf (signBit v) else .nan
  else if exponentField v = 0 then .finite (signBit v) (fractionField v)
  else .finite (signBit v) ((2 ^ 23 + fractionField v) * 2 ^ (exponentField v - 1))

/-- A pattern is a NaN: exponent all ones, fraction nonzero (R330). -/
def isNan (v : Word) : Bool :=
  exponentField v == 255 && fractionField v != 0

/-- One unit value: 2^149 units are 1. -/
def oneUnits : Nat := 2 ^ 149

/-- The pattern of ±infinity, as a magnitude. -/
def infMagnitude : Nat := 0x7F800000

/-- A sign bit put before a 31-bit magnitude pattern. -/
def withSign (neg : Bool) (magnitude : Nat) : Word :=
  BitVec.ofNat 32 (magnitude + if neg then 2 ^ 31 else 0)

/-- `n / d` rounded to the nearest integer, ties to even (R330). -/
def roundHalfEven (n d : Nat) : Nat :=
  if 2 * (n % d) < d then n / d
  else if d < 2 * (n % d) then n / d + 1
  else n / d + n / d % 2

/-- The magnitude pattern nearest to `n / d` units. The spacing of the values around it is 2^t units; the rounded count of
spacings carries into the exponent field by itself, and a pattern at or past infinity's is infinity (R330). -/
def roundMagnitude (n d : Nat) : Nat :=
  let t := Nat.log2 (n / d) - 23
  let p := t * 2 ^ 23 + roundHalfEven n (d * 2 ^ t)
  if infMagnitude ≤ p then infMagnitude else p

/-- `bits(roundRNE(x))` for the value x of the given sign and magnitude `n / d` units (R330). -/
def roundToPattern (neg : Bool) (n d : Nat) : Word :=
  withSign neg (roundMagnitude n d)

/-- A sign and a magnitude as an integer. -/
def signed (neg : Bool) (units : Nat) : Int :=
  if neg then -(units : Int) else units

/-- The sum of two values; `none` is a NaN result (R331). An exact zero sum is -0 only where both operands are negative. -/
def fpAdd (a b : Word) : Option Word :=
  match valueOf a, valueOf b with
  | .nan, _ => none
  | _, .nan => none
  | .inf s, .inf t => if s = t then some (withSign s infMagnitude) else none
  | .inf s, .finite _ _ => some (withSign s infMagnitude)
  | .finite _ _, .inf t => some (withSign t infMagnitude)
  | .finite s m, .finite t n =>
    let x := signed s m + signed t n
    if x = 0 then some (withSign (s && t) 0) else some (roundToPattern (decide (x < 0)) x.natAbs 1)

/-- A pattern with its sign bit inverted. -/
def negate (v : Word) : Word := v ^^^ 0x80000000

/-- The difference of two values (R332): the sum with the negated second operand. -/
def fpSub (a b : Word) : Option Word := fpAdd a (negate b)

/-- The product of two values (R333). -/
def fpMul (a b : Word) : Option Word :=
  match valueOf a, valueOf b with
  | .nan, _ => none
  | _, .nan => none
  | .inf s, .inf t => some (withSign (s != t) infMagnitude)
  | .inf s, .finite t n => if n = 0 then none else some (withSign (s != t) infMagnitude)
  | .finite s m, .inf t => if m = 0 then none else some (withSign (s != t) infMagnitude)
  | .finite s m, .finite t n => some (roundToPattern (s != t) (m * n) oneUnits)

/-- The quotient of two values (R334). -/
def fpDiv (a b : Word) : Option Word :=
  match valueOf a, valueOf b with
  | .nan, _ => none
  | _, .nan => none
  | .inf _, .inf _ => none
  | .inf s, .finite t _ => some (withSign (s != t) infMagnitude)
  | .finite s _, .inf t => some (withSign (s != t) 0)
  | .finite s m, .finite t n =>
    if n = 0 then
      if m = 0 then none else some (withSign (s != t) infMagnitude)
    else some (roundToPattern (s != t) (m * oneUnits) n)

/-- How two values compare (R335). -/
inductive Comparison where
  | unordered
  | less
  | equal
  | greater
  deriving DecidableEq, Repr

/-- An integer that orders the values that are numbers: every finite value is below 2^277 units (R335). -/
def orderKey : Binary32 → Option Int
  | .nan => none
  | .inf neg => some (signed neg (2 ^ 277))
  | .finite neg units => some (signed neg units)

/-- The comparison of two values: +0 and -0 are equal, a NaN is unordered (R335). -/
def fpCompare (a b : Word) : Comparison :=
  match orderKey (valueOf a), orderKey (valueOf b) with
  | some x, some y => if x < y then .less else if x = y then .equal else .greater
  | none, _ => .unordered
  | some _, none => .unordered

/-- The binary32 pattern of a signed integer (R336). -/
def fpOfInt (v : Word) : Word :=
  roundToPattern (decide (v.toInt < 0)) (v.toInt.natAbs * oneUnits) 1

/-- A value rounded toward zero to a signed 32-bit integer; `none` where it has none (R337). -/
def intOfFp (v : Word) : Option Word :=
  match valueOf v with
  | .nan => none
  | .inf _ => none
  | .finite neg units =>
    let i := signed neg (units / oneUnits)
    if i < -(2 ^ 31) ∨ 2 ^ 31 - 1 < i then none else some (BitVec.ofInt 32 i)

/-- A NaN pattern made of the raw bits of a draw: exponent all ones, sign and fraction from the draw, a fraction of 0
replaced. Every NaN pattern is the pattern of some draw (R330). -/
def nanPattern (raw : Word) : Word :=
  if raw &&& 0x007FFFFF = 0 then raw ||| 0x7FC00000 else raw ||| 0x7F800000

end Sys2Proof.Machine
end

