-- ==== Sys2Proof/Machine/Float.lean ====
section
/-! DEFINITION. The floating-point instructions (45_float.md R331 to R338). A NaN result is a draw (R330). -/

namespace Sys2Proof.Machine

/-- FP_NAN: the NaN pattern that the next draw gives (R330). -/
def State.nanDraw (s : State) : Word := nanPattern (Config.fpNan s.draws)

/-- FADD (R331). -/
def execFadd (rd rs1 rs2 : Reg) (s : State) : Result :=
  .next (writeOrDraw rd s.nanDraw (fpAdd (s.reg rs1) (s.reg rs2)) s)

/-- FSUB (R332). -/
def execFsub (rd rs1 rs2 : Reg) (s : State) : Result :=
  .next (writeOrDraw rd s.nanDraw (fpSub (s.reg rs1) (s.reg rs2)) s)

/-- FMUL (R333). -/
def execFmul (rd rs1 rs2 : Reg) (s : State) : Result :=
  .next (writeOrDraw rd s.nanDraw (fpMul (s.reg rs1) (s.reg rs2)) s)

/-- FDIV (R334). -/
def execFdiv (rd rs1 rs2 : Reg) (s : State) : Result :=
  .next (writeOrDraw rd s.nanDraw (fpDiv (s.reg rs1) (s.reg rs2)) s)

/-- The flags FCMP writes: Z equal, N less, C unordered, V 0 (R335). -/
def fcmpFlags (a b : Word) : Flags where
  z := fpCompare a b == .equal
  c := fpCompare a b == .unordered
  n := fpCompare a b == .less
  v := false

/-- FCMP (R335). -/
def execFcmp (rs1 rs2 : Reg) (s : State) : Result :=
  .next (writeFlags fcmpFlags rs1 rs2 s)

/-- FCVT (R336). -/
def execFcvt (rd rs1 : Reg) (s : State) : Result :=
  .next (writeUnary fpOfInt rd rs1 s)

/-- ICVT: NaN, an infinity or an out-of-range value gives the draw ICVT_INVALID (R337). -/
def execIcvt (rd rs1 : Reg) (s : State) : Result :=
  .next (writeOrDraw rd (Config.icvtInvalid s.draws) (intOfFp (s.reg rs1)) s)

/-- FMOV: the pattern is copied unchanged (R338). -/
def execFmov (rd rs1 : Reg) (s : State) : Result :=
  .next (writeUnary (fun a => a) rd rs1 s)

end Sys2Proof.Machine
end

