-- ==== Sys2Proof/Machine/Simd.lean ====
section
/-! DEFINITION. The packed 8-bit instructions (46_simd.md R370 to R374). -/

namespace Sys2Proof.Machine

/-- `lane_i(v)`: bits 8i+7:8i (R370). -/
def lane (i : Nat) (v : Word) : Byte := v.extractLsb' (8 * i) 8

/-- The word whose lanes are given, lane 0 the least significant (R370). -/
def ofLanes (l : Nat → Byte) : Word := l 3 ++ l 2 ++ l 1 ++ l 0

/-- `f` on each pair of lanes: lanes are independent and each result is taken mod 256 (R370). -/
def lanewise (f : Byte → Byte → Byte) (a b : Word) : Word :=
  ofLanes fun i => f (lane i a) (lane i b)

/-- The exact sum of the four unsigned lane products (R374). -/
def laneDot (a b : Word) : Nat :=
  (lane 0 a).toNat * (lane 0 b).toNat + (lane 1 a).toNat * (lane 1 b).toNat
    + (lane 2 a).toNat * (lane 2 b).toNat + (lane 3 a).toNat * (lane 3 b).toNat

/-- VADD (R371). -/
def execVadd (rd rs1 rs2 : Reg) (s : State) : Result :=
  .next (writeBinary (lanewise fun x y => x + y) rd rs1 rs2 s)

/-- VSUB (R372). -/
def execVsub (rd rs1 rs2 : Reg) (s : State) : Result :=
  .next (writeBinary (lanewise fun x y => x - y) rd rs1 rs2 s)

/-- VMUL (R373). -/
def execVmul (rd rs1 rs2 : Reg) (s : State) : Result :=
  .next (writeBinary (lanewise fun x y => x * y) rd rs1 rs2 s)

/-- VDOT (R374). -/
def execVdot (rd rs1 rs2 : Reg) (s : State) : Result :=
  .next (writeBinary (fun a b => BitVec.ofNat 32 (laneDot a b)) rd rs1 rs2 s)

end Sys2Proof.Machine
end

