-- ==== Sys2Proof/Machine/System.lean ====
section
/-! DEFINITION. SYSCALL and the environment boundary (43_system.md R290 to R297). -/

namespace Sys2Proof.Machine

/-- -1 as a 32-bit value, the failure result of a syscall (R293). -/
def allOnes : Word := 0xFFFFFFFF

/-- EXIT (R292). -/
def sysExit (s : State) : State :=
  { s with exitCode := s.reg 1, halted := true }

/-- GET_TIME (R294). -/
def sysGetTime (s : State) : State :=
  s.setReg 0 (s.ticks.setWidth 32)

/-- Simulated time moves on by `n` units: both sums wrap modulo 2^64 (R295, R446, R447). -/
def State.advanceTime (s : State) (n : Word) : State :=
  { s with ticks := s.ticks + n.setWidth 64, cycleCount := s.cycleCount + n.setWidth 64 }

/-- SLEEP (R295). -/
def sysSleep (s : State) : State :=
  (s.advanceTime (s.reg 1)).setReg 0 0

/-- A size rounded up to a multiple of 4, exactly (R297). -/
def roundUp4 (size : Nat) : Nat := 4 * ((size + 3) / 4)

/-- ALLOC (R297). -/
def sysAlloc (s : State) : State :=
  let size := (s.reg 1).toNat
  if size = 0 then s.setReg 0 0
  else if s.heapSize.toNat < s.heapUsed.toNat + roundUp4 size then s.setReg 0 0
  else { s.setReg 0 (s.heapBase + s.heapUsed) with heapUsed := s.heapUsed + BitVec.ofNat 32 (roundUp4 size) }

/-- FREE, "a no-op" but for its result (R297). -/
def sysFree (s : State) : State :=
  s.setReg 0 0

/-- FILE_*: "explicit unimplemented stubs returning failure" (R290). -/
def sysFile (s : State) : State :=
  s.setReg 0 allOnes

/-- A number that names no syscall (R293). -/
def sysUnknown (s : State) : State :=
  s.setReg 0 allOnes

/-! ### Environment outcomes (R296) -/

/-- A byte lies on a page that the environment may read. -/
def State.mayRead (s : State) (a : Nat) : Bool :=
  pageReason .read (pageEntry s.pages (a / pageSize)) == none

/-- What the block gives the environment: the number, the registers, ticks and the memory view (R296). -/
def envRequest (s : State) : EnvRequest where
  number := s.reg 0
  x := s.regs
  ticks := s.ticks
  pages := s.pages
  readable := s.mem.filter fun cell => s.mayRead cell.1

/-- The current context, with the pc of the next instruction (R296). -/
def currentContext (s : State) : Context where
  x := s.regs
  pc := s.pc + 4
  sp := s.sp
  fp := s.fp
  flags := s.flags

/-- The byte writes of an outcome that pass their check (R296). -/
def passedWrites (s : State) (writes : List (Word × Byte)) : List (Word × Byte) :=
  writes.filter fun w => s.check .write w.1 1 == none

/-- Byte writes applied in order (R296). -/
def applyWrites : Memory → List (Word × Byte) → Memory
  | m, [] => m
  | m, w :: ws => applyWrites (memWrite m w.1.toNat w.2) ws

/-- Some access the environment made through the view failed its check (R296). DESIGN CHOICE (unsafe, log entry 5): a read of
no byte never fails, since `checkAccess` lets it pass as R110 lets a host access of no byte pass. -/
def viewFailed (s : State) (reads : List (Word × Nat)) (writes : List (Word × Byte)) : Bool :=
  (reads.any fun r => s.check .read r.1 r.2 != none) || (writes.any fun w => s.check .write w.1 1 != none)

/-- The outcome Result(v, writes): the writes that passed are applied in order, then x[0] gets v, or all ones where a check
of the view failed (R296). -/
def envResult (v : Word) (reads : List (Word × Nat)) (writes : List (Word × Byte)) (s : State) : State :=
  (s.setMem (applyWrites s.mem (passedWrites s writes))).setReg 0 (if viewFailed s reads writes then allOnes else v)

/-- The outcome Switch(ctx_in): the current context is handed out, and x, pc, sp, fp and flags are loaded; pc counts as
written (R296, R410). -/
def envSwitch (ctx : Context) (s : State) : State :=
  { s with
    handedContext := some (currentContext s)
    regs := ctx.x
    pc := ctx.pc
    sp := ctx.sp
    fp := ctx.fp
    flags := ctx.flags
    pcWritten := true }

/-- The block's action on an environment outcome (R296). -/
def applyOutcome (o : EnvOutcome) (s : State) : State :=
  match o with
  | .result v reads writes => envResult v reads writes s
  | .switch ctx => envSwitch ctx s

/-- A syscall that the environment services: its answer is the next draw of SYSCALL_ENV (R296). -/
def sysEnvironment (s : State) : State :=
  (applyOutcome (Config.syscallEnv s.draws (envRequest s)) s).drawn

/-- The case split of R290 on the syscall that r0 names. -/
def syscallEffect (call : Option Syscall) (s : State) : State :=
  match call with
  | some .exit => sysExit s
  | some .getTime => sysGetTime s
  | some .sleep => sysSleep s
  | some .alloc => sysAlloc s
  | some .free => sysFree s
  | some (.file _) => sysFile s
  | some .print => sysEnvironment s
  | some .read => sysEnvironment s
  | some (.thread _) => sysEnvironment s
  | some (.mutex _) => sysEnvironment s
  | some (.sem _) => sysEnvironment s
  | some (.other _) => sysEnvironment s
  | none => sysUnknown s

/-- SYSCALL (R290). -/
def execSyscall (s : State) : Result :=
  .next (syscallEffect (Config.syscallOf (s.reg 0)) s)

end Sys2Proof.Machine
end

