-- ==== Sys2Proof/Machine/Dispatch.lean ====
section
/-! DEFINITION. Execute (60_exceptions.md R409): the rule that R160 names for each instruction. -/

namespace Sys2Proof.Machine

def exec (i : Instr) (s : State) : Host.Outcome State Fault Refusal :=
  match i with
  | .add rd rs1 rs2 => Sys2Proof.Machine.execAdd rd rs1 rs2 s
  | .sub rd rs1 rs2 => Sys2Proof.Machine.execSub rd rs1 rs2 s
  | .mul rd rs1 rs2 => Sys2Proof.Machine.execMul rd rs1 rs2 s
  | .div rd rs1 rs2 => Sys2Proof.Machine.execDiv rd rs1 rs2 s
  | .mod rd rs1 rs2 => Sys2Proof.Machine.execMod rd rs1 rs2 s
  | .and rd rs1 rs2 => Sys2Proof.Machine.execAnd rd rs1 rs2 s
  | .or rd rs1 rs2 => Sys2Proof.Machine.execOr rd rs1 rs2 s
  | .xor rd rs1 rs2 => Sys2Proof.Machine.execXor rd rs1 rs2 s
  | .cmp rs1 rs2 => Sys2Proof.Machine.execCmp rs1 rs2 s
  | .test rs1 rs2 => Sys2Proof.Machine.execTest rs1 rs2 s
  | .slt rd rs1 rs2 => Sys2Proof.Machine.execSlt rd rs1 rs2 s
  | .sle rd rs1 rs2 => Sys2Proof.Machine.execSle rd rs1 rs2 s
  | .seq rd rs1 rs2 => Sys2Proof.Machine.execSeq rd rs1 rs2 s
  | .sne rd rs1 rs2 => Sys2Proof.Machine.execSne rd rs1 rs2 s
  | .loadi rd imm => Sys2Proof.Machine.execLoadi rd imm s
  | .move rd rs1 => Sys2Proof.Machine.execMove rd rs1 s
  | .jmp target => Sys2Proof.Machine.execJmp target s
  | .jz target => Sys2Proof.Machine.execJz target s
  | .jnz target => Sys2Proof.Machine.execJnz target s
  | .call target => Sys2Proof.Machine.execCall target s
  | .ret => Sys2Proof.Machine.execRet s
  | .syscall => Sys2Proof.Machine.execSyscall s
  | .halt => Sys2Proof.Machine.execHalt s
  | .xchg rd rs1 rs2 => Sys2Proof.Machine.execXchg rd rs1 rs2 s
  | .cas rd rs1 rs2 => Sys2Proof.Machine.execCas rd rs1 rs2 s
  | .faddAtomic rd rs1 rs2 => Sys2Proof.Machine.execFaddAtomic rd rs1 rs2 s
  | .fadd rd rs1 rs2 => Sys2Proof.Machine.execFadd rd rs1 rs2 s
  | .fsub rd rs1 rs2 => Sys2Proof.Machine.execFsub rd rs1 rs2 s
  | .fmul rd rs1 rs2 => Sys2Proof.Machine.execFmul rd rs1 rs2 s
  | .fdiv rd rs1 rs2 => Sys2Proof.Machine.execFdiv rd rs1 rs2 s
  | .fcmp rs1 rs2 => Sys2Proof.Machine.execFcmp rs1 rs2 s
  | .fcvt rd rs1 => Sys2Proof.Machine.execFcvt rd rs1 s
  | .icvt rd rs1 => Sys2Proof.Machine.execIcvt rd rs1 s
  | .fmov rd rs1 => Sys2Proof.Machine.execFmov rd rs1 s
  | .vadd rd rs1 rs2 => Sys2Proof.Machine.execVadd rd rs1 rs2 s
  | .vsub rd rs1 rs2 => Sys2Proof.Machine.execVsub rd rs1 rs2 s
  | .vmul rd rs1 rs2 => Sys2Proof.Machine.execVmul rd rs1 rs2 s
  | .vdot rd rs1 rs2 => Sys2Proof.Machine.execVdot rd rs1 rs2 s

end Sys2Proof.Machine
end

