-- ==== Sys2Proof/Machine/Fsm.lean ====
section
/-! DEFINITION. The parts of the control FSM's step around an instruction's own rule, and the interrupt dispatcher
(60_exceptions.md R401 to R437). -/

namespace Sys2Proof.Machine

/-! ### Before the instruction (R402 to R404) -/

/-- The step ends with a result. -/
def State.ended (s : State) (r : StepResult) : State := { s with result := some r }

/-- A pending break request is cleared and halts the CPU (R403). -/
def State.takeBreak (s : State) : State := { s with breakRequest := false, halted := true }

/-- pc is at an enabled breakpoint (R404). -/
def State.atBreakpoint (s : State) : Bool := s.dbgEnabled && s.breakpoints.contains s.pc

/-- A step that runs no instruction: a break request, the Halted state, or a breakpoint, in that order (R401, R423). -/
def stepIdle (s : State) : Option State :=
  if s.breakRequest then some (s.takeBreak.ended .halted)
  else if s.halted then some (s.ended .halted)
  else if s.atBreakpoint then some (s.ended .paused)
  else none

/-! ### Fetch and decode (R406 to R408) -/

/-- `pc_written <- 0` at the start of an instruction; the step has no result yet (R401). -/
def State.begun (s : State) : State := { s with pcWritten := false, result := none }

/-- The word `w` of R401 kept for the instruction's rule and for the fault record (R422). -/
def State.setIr (s : State) (w : Word) : State := { s with ir := w }

/-- `Fetch(pc)` (R13, R406). -/
def fetchWord (s : State) : Except Exc Word :=
  match s.check .fetch s.pc 4 with
  | some r => .error (.memory .fetch s.pc 4 r)
  | none => .ok (s.loadWord s.pc)

/-- Fetch and decode: the instruction and the state it runs in, or the state with the fault recorded (R406 to R408). -/
def fetchDecode (s : State) : Except State (Instr × State) :=
  match fetchWord s.begun with
  | .error e => .error (s.begun.raise e)
  | .ok w =>
    match decodeWord s.params.opcodeMap w with
    | .error _ => .error ((s.begun.setIr w).raise .illegalOpcode)
    | .ok i => .ok (i, s.begun.setIr w)

/-! ### Retire (R410, R445, R446) -/

/-- The pc increment, unless the instruction wrote pc (R410). -/
def State.incrementPc (s : State) : State :=
  if s.pcWritten then s else { s with pc := s.pc + 4 }

/-- The counters of a retired instruction (R445, R446). -/
def State.count (s : State) : State :=
  { s with instructionCount := s.instructionCount + 1, cycleCount := s.cycleCount + 1 }

/-- Retiring an instruction that raised nothing. -/
def State.retire (s : State) : State := s.incrementPc.count

/-! ### The interrupt dispatcher (R433, R434, R437) -/

/-- Vector `i` is pending and enabled. -/
def State.ready (s : State) (i : Irq) : Bool := s.vec[i].pending && s.vec[i].enabled

/-- The lowest-numbered vector that is pending and enabled (R433, R434). -/
def State.readyVector (s : State) : Option Irq := (List.finRange 32).find? s.ready

/-- `dispatch()`: at most one vector; the push comes first, and a failed push is recorded with the vector's number (R433,
R437). -/
def dispatchIrq (s : State) : State :=
  if s.irqGlobalEnable then
    match s.readyVector with
    | none => s
    | some i =>
      match s.push (.irqPush i) s.pc with
      | .error e => s.raise e
      | .ok t => t.enterHandler i
  else s

/-! ### The end of a step (R401, R405, R411) -/

/-- The result of a step that retired an instruction, did not halt and ran the dispatcher (R405, R437). -/
def State.concluded (s : State) : State :=
  if s.result = some .fault then s
  else if s.singleStep then s.ended .paused
  else s.ended .continued

/-- What R401 does after an instruction's rule: a fault ends the step there; otherwise the instruction retires, and then the
step returns Halted or runs the dispatcher. -/
def finishStep (s : State) : State :=
  if s.result = some .fault then s
  else if s.retire.halted then s.retire.ended .halted
  else (dispatchIrq s.retire).concluded

end Sys2Proof.Machine
end

