-- ==== Sys2Proof/Machine/Step.lean ====
section
/-! DEFINITION. One step of the control FSM (60_exceptions.md R401), and placing a word where the next step fetches. -/

namespace Sys2Proof.Machine

/-- `step()` (R401). Its result is the field `result` of the next state. -/
def step (s : State) : Host.Outcome State Fault Refusal :=
  match stepIdle s with
  | some t => .next t
  | none =>
    match fetchDecode s with
    | .error t => .next t
    | .ok (i, t) =>
      match exec i t with
      | .next u => .next (finishStep u)
      | .fault f => .fault f
      | .refused r => .refused r

/-- `s` with the instruction whose bits are `w` stored little-endian at pc, where the next step fetches (R406). Bits from
`nbits` up are 0. -/
def State.withFetchWord (s : State) (nbits w : Nat) : State :=
  s.storeWord s.pc (BitVec.ofNat 32 (w % 2 ^ nbits))

end Sys2Proof.Machine
end

