-- ==== Sys2Proof/Machine/Ports.lean ====
section
/-! DEFINITION. The host ports (00_scope.md R7): each operation is one atomic transaction between steps (R6). An operation
that may fail answers a `PortStatus`; one that returns data answers `none` for the result -1. -/

namespace Sys2Proof.Machine

/-- Whether a port operation that may fail succeeded: the result 0 or -1 (R116, R431, R432, R440; for write_memory
and set_page_protection R114, R115 and vector M10; for the success of `set_register` see there). -/
inductive PortStatus where
  | done
  | failed
  deriving DecidableEq, Repr

/-- The number a port operation returns: -1 on failure, and 0 on success. -/
def PortStatus.code : PortStatus → Int
  | .done => 0
  | .failed => -1

/-- An index argument of a port, where it is one of 0..n-1. -/
def portIndex (n : Nat) [NeZero n] (i : Int) : Option (Fin n) :=
  if 0 ≤ i ∧ i < n then some (Fin.ofNat n i.toNat) else none

/-! ### Registers (R42, R47) -/

/-- `get_register(i)` (R42). -/
def getRegister (i : Int) (s : State) : Option Word :=
  (portIndex 16 i).map s.reg

/-- `set_register(i, v)` (R42). DESIGN CHOICE: R42 gives only the result -1 of a failure; that a write which succeeds answers
0 is the model's (log entry 16). -/
def setRegister (i : Int) (v : Word) (s : State) : State × PortStatus :=
  match portIndex 16 i with
  | some r => (s.setReg r v, .done)
  | none => (s, .failed)

/-- `get_pc` (R47). -/
def getPc (s : State) : Word := s.pc

/-- `set_pc` (R47). -/
def setPc (v : Word) (s : State) : State := { s with pc := v }

/-- `get_sp` (R47). -/
def getSp (s : State) : Word := s.sp

/-- `set_sp` (R47). -/
def setSpPort (v : Word) (s : State) : State := { s with sp := v }

/-- `get_fp` (R47). -/
def getFp (s : State) : Word := s.fp

/-- `set_fp` (R47). -/
def setFp (v : Word) (s : State) : State := { s with fp := v }

/-- `get_flags` (R46, R47). -/
def getFlags (s : State) : Word := packFlags s.flags

/-- `set_flags(v)` (R46, R47). -/
def setFlagsPort (v : Word) (s : State) : State := { s with flags := unpackFlags v }

/-! ### Memory (R114 to R116) -/

/-- `read_memory(addr, len)` (R114). -/
def readMemory (addr : Word) (len : Nat) (s : State) : Option (List Byte) :=
  match s.check .read addr len with
  | some _ => none
  | none => some (memReadBytes s.mem addr.toNat len)

/-- A copy of bytes into MEM after the check of its kind. -/
def copyIn (k : AccessKind) (addr : Word) (bytes : List Byte) (s : State) : State × PortStatus :=
  match s.check k addr bytes.length with
  | some _ => (s, .failed)
  | none => (s.setMem (memWriteBytes s.mem addr.toNat bytes), .done)

/-- `write_memory(addr, len, buf)`, with len the length of buf (R114). -/
def writeMemory (addr : Word) (buf : List Byte) (s : State) : State × PortStatus :=
  copyIn .write addr buf s

/-- `load_program(bytes, len, addr)`, with len the length of bytes (R116). -/
def loadProgram (bytes : List Byte) (addr : Word) (s : State) : State × PortStatus :=
  copyIn .load addr bytes s

/-- `get_page_protection(page)` (R115). -/
def getPageProtection (page : Int) (s : State) : Option Byte :=
  (portIndex 256 page).map fun p => s.pages[p]

/-- `set_page_protection(page, bits)` (R115). -/
def setPageProtection (page : Int) (bits : Word) (s : State) : State × PortStatus :=
  match portIndex 256 page with
  | some p => ({ s with pages := s.pages.set p (bits.setWidth 8) }, .done)
  | none => (s, .failed)

/-! ### Interrupts (R430 to R432) -/

/-- `irq_enable(b)` (R430). -/
def irqEnable (b : Bool) (s : State) : State := { s with irqGlobalEnable := b }

/-- `set_handler(irq, addr)` (R431). -/
def setHandler (irq : Int) (addr : Word) (s : State) : State × PortStatus :=
  match portIndex 32 irq with
  | some i => ({ s with vec := s.vec.set i { s.vec[i] with handlerAddr := addr, enabled := true } }, .done)
  | none => (s, .failed)

/-- `trigger(irq)` (R432). -/
def trigger (irq : Int) (s : State) : State × PortStatus :=
  match portIndex 32 irq with
  | some i => ({ s with vec := s.vec.set i { s.vec[i] with pending := true } }, .done)
  | none => (s, .failed)

/-! ### Timer and counters (R447, R448) -/

/-- `get_ticks()` (R447). -/
def getTicks (s : State) : Count := s.ticks

/-- `advance(n)` (R446, R447). -/
def advance (n : Word) (s : State) : State := s.advanceTime n

/-- `get_instruction_count()` (R448). -/
def getInstructionCount (s : State) : Count := s.instructionCount

/-- `get_cycle_count()` (R448). -/
def getCycleCount (s : State) : Count := s.cycleCount

/-! ### Debugger inputs and the break request (R403, R440) -/

/-- `dbg_enable(b)` (R440). -/
def dbgEnable (b : Bool) (s : State) : State := { s with dbgEnabled := b }

/-- `single_step(b)` (R440). -/
def setSingleStep (b : Bool) (s : State) : State := { s with singleStep := b }

/-- `add_breakpoint(a)` (R440). DESIGN CHOICE: for an address that a FULL set already holds, R440's result column does not
say whether 0 or -1 applies; the duplicate is tested first and answers 0 (log entry 15). -/
def addBreakpoint (a : Word) (s : State) : State × PortStatus :=
  if s.breakpoints.contains a then (s, .done)
  else if maxBreakpoints ≤ s.breakpoints.length then (s, .failed)
  else ({ s with breakpoints := s.breakpoints ++ [a] }, .done)

/-- `remove_breakpoint(a)` (R440). -/
def removeBreakpoint (a : Word) (s : State) : State × PortStatus :=
  if s.breakpoints.contains a then ({ s with breakpoints := s.breakpoints.erase a }, .done)
  else (s, .failed)

/-- `clear_breakpoints()` (R440). -/
def clearBreakpoints (s : State) : State := { s with breakpoints := [] }

/-- `break_request`: the host sets the bit (R55, R403). -/
def requestBreak (s : State) : State := { s with breakRequest := true }

/-! ### Reset (R470) -/

/-- `create()` and `init()` for parameters the model accepts; others are refused (R106, R470). -/
def createWith (prm : Params) : Option State :=
  if prm.wf then some (State.created prm).init else none

/-- MEM after a `reset`: zero where RESET_CLEARS_MEMORY holds, otherwise any byte at each address (R470, entry I1). -/
def memoryAfterReset (draw : Nat) : Memory :=
  if Config.resetClearsMemory then [] else memOfBytes (Config.resetByte draw)

/-- `reset()`: `init()` run again on a machine that exists, with the memory bytes a reset leaves (R470, R471). -/
def resetPort (s : State) : State :=
  (s.init.setMem (memoryAfterReset s.draws)).drawn

/-! ### The run port (R412) -/

/-- What `run()` came to within a budget of steps (R412, entry I16). -/
inductive RunOutcome where
  /-- `run` returned this value, leaving this state -/
  | returned (v : Word) (s : State)
  /-- the budget ran out while every step returned Continue -/
  | outOfBudget (s : State)
  deriving DecidableEq, Repr

/-- What `run()` does with a step's result: `none` is another turn of its loop (R412). -/
def runReturns (r : StepResult) (s : State) : Option Word :=
  match r with
  | .continued => none
  | .halted => some s.exitCode
  | .fault => some allOnes
  | .paused => some Config.runPausedValue

/-- `run()` with a budget of steps: no host operation comes between them (R412). A step of this model always answers a next
state with a result; the other answers of `step` leave the budget unused. -/
def run : Nat → State → RunOutcome
  | 0, s => .outOfBudget s
  | budget + 1, s =>
    match step s with
    | .next t =>
      match t.result with
      | some r =>
        match runReturns r t with
        | some v => .returned v t
        | none => run budget t
      | none => .outOfBudget t
    | .fault _ => .outOfBudget s
    | .refused _ => .outOfBudget s

/-- The number that `step()` returns for the latest step (R400). -/
def stepReturnValue (s : State) : Option Word :=
  s.result.map Config.stepResultEncoding

/-- Every host operation that changes the machine, as data (R7). -/
inductive HostOp where
  | setRegister (i : Int) (v : Word)
  | setPc (v : Word)
  | setSp (v : Word)
  | setFp (v : Word)
  | setFlags (v : Word)
  | writeMemory (addr : Word) (buf : List Byte)
  | loadProgram (bytes : List Byte) (addr : Word)
  | setPageProtection (page : Int) (bits : Word)
  | irqEnable (b : Bool)
  | setHandler (irq : Int) (addr : Word)
  | trigger (irq : Int)
  | advance (n : Word)
  | dbgEnable (b : Bool)
  | singleStep (b : Bool)
  | addBreakpoint (a : Word)
  | removeBreakpoint (a : Word)
  | clearBreakpoints
  | breakRequest
  | reset
  deriving DecidableEq, Repr

/-- The state after one host operation (R7). -/
def hostOp (op : HostOp) (s : State) : State :=
  match op with
  | .setRegister i v => (setRegister i v s).1
  | .setPc v => setPc v s
  | .setSp v => setSpPort v s
  | .setFp v => setFp v s
  | .setFlags v => setFlagsPort v s
  | .writeMemory a b => (writeMemory a b s).1
  | .loadProgram b a => (loadProgram b a s).1
  | .setPageProtection p b => (setPageProtection p b s).1
  | .irqEnable b => irqEnable b s
  | .setHandler i a => (setHandler i a s).1
  | .trigger i => (trigger i s).1
  | .advance n => advance n s
  | .dbgEnable b => dbgEnable b s
  | .singleStep b => setSingleStep b s
  | .addBreakpoint a => (addBreakpoint a s).1
  | .removeBreakpoint a => (removeBreakpoint a s).1
  | .clearBreakpoints => clearBreakpoints s
  | .breakRequest => requestBreak s
  | .reset => resetPort s

end Sys2Proof.Machine
end

