-- ==== Sys2Proof/Safety.lean ====
section
/-! DEFINITION. What claims about runs speak of: the invariant of the state, and steps that end without a fault. -/

namespace Sys2Proof.Machine

/-- The breakpoint set is a set of at most 16 addresses (R54). -/
abbrev State.breakpointsOk (s : State) : Prop :=
  s.breakpoints.Nodup ∧ s.breakpoints.length ≤ maxBreakpoints

/-- The invariant of every state a machine reaches: memory has its canonical form, so that no address at or above MEM_SIZE
holds a byte (R100), and the breakpoints are a set of at most 16 (R54). -/
abbrev State.Inv (s : State) : Prop := memWf s.mem ∧ s.breakpointsOk

/-- The step from `s` to `t` ended in no fault (R411). -/
def stepClean (t : State) : Bool := t.result != some .fault

end Sys2Proof.Machine
end

