-- ==== Sys2Proof/Certificates/Slice0/Obligations.lean ====
section
/-! DEFINITION. The statements about the machine. A record update `{ s with … }` on the right of a next state says the whole
frame: every field it does not name is unchanged, every byte of memory included where it does not name `mem`. -/

open Sys2Proof Sys2Proof.Machine

/-! ### Integer ALU (40_alu.md) -/

/-- R201, with the C and V of R200 said as carry and overflow of the exact sums. -/
def Obligations.AddWritesSumCarryAndOverflow : Prop :=
  ∀ (rd rs1 rs2 : Reg) (s : State), ∃ f : Flags,
    exec (.add rd rs1 rs2) s =
      .next { s with regs := s.regs.set rd (s.reg rs1 + s.reg rs2), flags := f } ∧
    (f.z = true ↔ s.reg rs1 + s.reg rs2 = 0) ∧
    (f.c = true ↔ 2 ^ 32 ≤ (s.reg rs1).toNat + (s.reg rs2).toNat) ∧
    (f.n = true ↔ (s.reg rs1 + s.reg rs2).toInt < 0) ∧
    (f.v = true ↔ (s.reg rs1).toInt + (s.reg rs2).toInt < -2 ^ 31 ∨
      2 ^ 31 ≤ (s.reg rs1).toInt + (s.reg rs2).toInt)

/-- R202 and R211: SUB and CMP write the same flags, CMP nothing else, and N ≠ V exactly where the first operand is less in
the signed order. -/
def Obligations.SubAndCmpWriteDifferenceFlags : Prop :=
  ∀ (rd rs1 rs2 : Reg) (s : State), ∃ f : Flags,
    exec (.sub rd rs1 rs2) s =
      .next { s with regs := s.regs.set rd (s.reg rs1 - s.reg rs2), flags := f } ∧
    exec (.cmp rs1 rs2) s = .next { s with flags := f } ∧
    (f.z = true ↔ s.reg rs1 = s.reg rs2) ∧
    (f.c = true ↔ (s.reg rs1).toNat < (s.reg rs2).toNat) ∧
    (f.n = true ↔ (s.reg rs1 - s.reg rs2).toInt < 0) ∧
    (f.v = true ↔ (s.reg rs1).toInt - (s.reg rs2).toInt < -2 ^ 31 ∨
      2 ^ 31 ≤ (s.reg rs1).toInt - (s.reg rs2).toInt) ∧
    (f.n ≠ f.v ↔ (s.reg rs1).toInt < (s.reg rs2).toInt)

/-- R203: the low word of the exact unsigned product, C where the high half is nonzero. Rests on the spec's own decision
D8. -/
def Obligations.MulWritesLowWordOfExactProduct : Prop :=
  ∀ (rd rs1 rs2 : Reg) (s : State), ∃ (r : Word) (f : Flags),
    exec (.mul rd rs1 rs2) s = .next { s with regs := s.regs.set rd r, flags := f } ∧
    r.toNat = (s.reg rs1).toNat * (s.reg rs2).toNat % 2 ^ 32 ∧
    (f.z = true ↔ r = 0) ∧
    (f.c = true ↔ 2 ^ 32 ≤ (s.reg rs1).toNat * (s.reg rs2).toNat) ∧
    (f.n = true ↔ r.toInt < 0) ∧ f.v = false

/-- R204: the floor quotient of the unsigned operands; a zero divisor zeroes rd, records ArithmeticFault and changes
nothing else. Rests on the spec's own decisions D9, D24 and D25. -/
def Obligations.DivWritesFloorQuotientOrFaults : Prop :=
  ∀ (rd rs1 rs2 : Reg) (s : State),
    (s.reg rs2 ≠ 0 → ∃ (q : Word) (f : Flags),
      exec (.div rd rs1 rs2) s = .next { s with regs := s.regs.set rd q, flags := f } ∧
      q.toNat * (s.reg rs2).toNat ≤ (s.reg rs1).toNat ∧
      (s.reg rs1).toNat < (q.toNat + 1) * (s.reg rs2).toNat ∧
      (f.z = true ↔ q = 0) ∧ (f.n = true ↔ q.toInt < 0) ∧ f.c = false ∧ f.v = false) ∧
    (s.reg rs2 = 0 →
      exec (.div rd rs1 rs2) s =
        .next { s with
          regs := s.regs.set rd 0, faulted := true, faultCause := 2,
          faultInfo := ⟨9, s.pc, 0, 4, s.ir⟩, result := some .fault })

/-- R205: the unsigned remainder; a zero divisor zeroes rd, records ArithmeticFault and changes nothing else. Rests on
the spec's own decisions D9, D24 and D25. -/
def Obligations.ModWritesRemainderOrFaults : Prop :=
  ∀ (rd rs1 rs2 : Reg) (s : State),
    (s.reg rs2 ≠ 0 → ∃ (q : Nat) (m : Word) (f : Flags),
      exec (.mod rd rs1 rs2) s = .next { s with regs := s.regs.set rd m, flags := f } ∧
      (s.reg rs1).toNat = q * (s.reg rs2).toNat + m.toNat ∧ m.toNat < (s.reg rs2).toNat ∧
      (f.z = true ↔ m = 0) ∧ (f.n = true ↔ m.toInt < 0) ∧ f.c = false ∧ f.v = false) ∧
    (s.reg rs2 = 0 →
      exec (.mod rd rs1 rs2) s =
        .next { s with
          regs := s.regs.set rd 0, faulted := true, faultCause := 2,
          faultInfo := ⟨10, s.pc, 0, 4, s.ir⟩, result := some .fault })

/-- R208 to R210 and R212: bit by bit, with Z and N from the result and C and V cleared; TEST writes no register.
Rests on the spec's own decision D7. -/
def Obligations.LogicIsBitwiseAndClearsCarryOverflow : Prop :=
  ∀ (rd rs1 rs2 : Reg) (s : State), ∃ (x y z : Word) (f g h : Flags),
    exec (.and rd rs1 rs2) s = .next { s with regs := s.regs.set rd x, flags := f } ∧
    exec (.test rs1 rs2) s = .next { s with flags := f } ∧
    exec (.or rd rs1 rs2) s = .next { s with regs := s.regs.set rd y, flags := g } ∧
    exec (.xor rd rs1 rs2) s = .next { s with regs := s.regs.set rd z, flags := h } ∧
    (∀ k < 32, x.getLsbD k = ((s.reg rs1).getLsbD k && (s.reg rs2).getLsbD k)) ∧
    (∀ k < 32, y.getLsbD k = ((s.reg rs1).getLsbD k || (s.reg rs2).getLsbD k)) ∧
    (∀ k < 32, z.getLsbD k = ((s.reg rs1).getLsbD k != (s.reg rs2).getLsbD k)) ∧
    f = ⟨decide (x = 0), false, decide (x.toInt < 0), false⟩ ∧
    g = ⟨decide (y = 0), false, decide (y.toInt < 0), false⟩ ∧
    h = ⟨decide (z = 0), false, decide (z.toInt < 0), false⟩

/-- R213 to R216: rd is 1 or 0 and no flag is written. Rests on the spec's own decision D10. -/
def Obligations.SetOnConditionWritesOneOrZero : Prop :=
  ∀ (rd rs1 rs2 : Reg) (s : State),
    exec (.slt rd rs1 rs2) s =
      .next { s with regs := s.regs.set rd (if (s.reg rs1).toInt < (s.reg rs2).toInt then 1 else 0) } ∧
    exec (.sle rd rs1 rs2) s =
      .next { s with regs := s.regs.set rd (if (s.reg rs1).toInt ≤ (s.reg rs2).toInt then 1 else 0) } ∧
    exec (.seq rd rs1 rs2) s =
      .next { s with regs := s.regs.set rd (if s.reg rs1 = s.reg rs2 then 1 else 0) } ∧
    exec (.sne rd rs1 rs2) s =
      .next { s with regs := s.regs.set rd (if s.reg rs1 = s.reg rs2 then 0 else 1) }

/-! ### Data movement (41_data_move.md) -/

/-- R240, R241 and R338: one register is written and nothing else changes. Rests on the spec's own decisions D6 and
D38. -/
def Obligations.LoadImmediateAndMovesWriteOneRegister : Prop :=
  ∀ (rd rs1 : Reg) (imm : Word) (s : State),
    exec (.loadi rd imm) s = .next { s with regs := s.regs.set rd imm } ∧
    exec (.move rd rs1) s = .next { s with regs := s.regs.set rd (s.reg rs1) } ∧
    exec (.fmov rd rs1) s = .next { s with regs := s.regs.set rd (s.reg rs1) }

/-- R152 and R156 for LOADI: every word with opcode 0x10 decodes to LOADI with rd from bits 19:16 and bits 15:0 read
as a signed number, whatever bits 23:20 hold (R155). At the default opcode map (decision D1). Rests on the spec's own
decisions D1, D2 and D3. Rests on the spec's own decisions D1, D2 and D3. -/
def Obligations.LoadiImmediateIsSignedLowHalf : Prop :=
  ∀ w : Word, w.toNat / 2 ^ 24 = 0x10 → ∃ (rd : Reg) (imm : Word),
    decodeWord defaultOpcodeMap w = .ok (.loadi rd imm) ∧
    rd.val = w.toNat / 2 ^ 16 % 16 ∧
    imm.toInt = if w.toNat % 2 ^ 16 < 2 ^ 15 then (w.toNat % 2 ^ 16 : Int) else w.toNat % 2 ^ 16 - 2 ^ 16

/-! ### Control transfer (42_control.md) -/

/-- R261 to R263 with the target of R260: a taken jump writes pc and sets pc_written, a jump not taken changes
nothing. Rests on the spec's own decision D4. -/
def Obligations.JumpsWriteTargetWhereTaken : Prop :=
  ∀ (imm : Word) (s : State),
    let t : Word := match s.params.jTargetMode with
      | .absolute => imm
      | .pcRelative => s.pc + imm
    exec (.jmp imm) s = .next { s with pc := t, pcWritten := true } ∧
    (s.flags.z = true → exec (.jz imm) s = .next { s with pc := t, pcWritten := true }) ∧
    (s.flags.z = false → exec (.jz imm) s = .next s) ∧
    (s.flags.z = false → exec (.jnz imm) s = .next { s with pc := t, pcWritten := true }) ∧
    (s.flags.z = true → exec (.jnz imm) s = .next s)

/-- R264: where the stack slot passes its check, the four bytes at sp - 4 hold pc + 4 little-endian, every other byte
is unchanged, sp is sp - 4 and pc is the target; where it does not, MemoryFault(PUSH) is recorded and nothing else
changes. Rests on the spec's own decisions D4, D11, D20, D22, D24 and D25. -/
def Obligations.CallPushesReturnAddressOrFaults : Prop :=
  ∀ (imm : Word) (s : State), memWf s.mem →
    (s.check .push (s.sp - 4) 4 = none → ∃ m : Memory,
      exec (.call imm) s =
        .next { s with mem := m, sp := s.sp - 4, pc := jumpTarget s imm, pcWritten := true } ∧
      (∀ k < 4, memRead m ((s.sp - 4).toNat + k) = ((s.pc + 4) >>> (8 * k)).setWidth 8) ∧
      (∀ a, a < (s.sp - 4).toNat ∨ (s.sp - 4).toNat + 4 ≤ a → memRead m a = memRead s.mem a)) ∧
    (∀ r : Reason, s.check .push (s.sp - 4) 4 = some r →
      exec (.call imm) s =
        .next { s with
          faulted := true, faultCause := 1,
          faultInfo := ⟨5, s.sp - 4, 4, r.code, s.ir⟩, result := some .fault })

/-- R265: where the stack slot passes its check, pc is the little-endian word at sp and sp is sp + 4; where it does
not, MemoryFault(POP) is recorded and nothing else changes. Rests on the spec's own decisions D11, D20, D22, D24 and
D25 and log entries 6 and 21. -/
def Obligations.RetPopsReturnAddressOrFaults : Prop :=
  ∀ s : State,
    (s.check .pop s.sp 4 = none → ∃ t : Word,
      exec .ret s = .next { s with sp := s.sp + 4, pc := t, pcWritten := true } ∧
      t.toNat = (s.byte s.sp.toNat).toNat + 2 ^ 8 * (s.byte (s.sp.toNat + 1)).toNat +
        2 ^ 16 * (s.byte (s.sp.toNat + 2)).toNat + 2 ^ 24 * (s.byte (s.sp.toNat + 3)).toNat) ∧
    (∀ r : Reason, s.check .pop s.sp 4 = some r →
      exec .ret s =
        .next { s with
          faulted := true, faultCause := 1,
          faultInfo := ⟨6, s.sp, 4, r.code, s.ir⟩, result := some .fault })

/-- The property of §8 that 42_control.md quotes: CALL and then RET restore pc to the instruction following the CALL,
and sp, the registers and the flags to what they were. Rests on the spec's own decision D22. -/
def Obligations.CallThenRetReturnsToNextInstruction : Prop :=
  ∀ (imm : Word) (s : State), memWf s.mem →
    s.check .push (s.sp - 4) 4 = none → s.check .pop (s.sp - 4) 4 = none →
    ∃ t u : State, exec (.call imm) s = .next t ∧ exec .ret t = .next u ∧
      u.pc = s.pc + 4 ∧ u.sp = s.sp ∧ u.regs = s.regs ∧ u.flags = s.flags

/-- R266: HALT only sets `halted`; its step retires it, advances pc by 4 and returns Halted with no dispatch. Rests on
the spec's own decision D31. -/
def Obligations.HaltRetiresAndReturnsHalted : Prop :=
  ∀ s : State, exec .halt s = .next { s with halted := true } ∧
    (s.breakRequest = false → s.halted = false → s.atBreakpoint = false → s.check .fetch s.pc 4 = none →
      decodeWord s.params.opcodeMap (s.loadWord s.pc) = .ok .halt →
      step s = .next { s with
        halted := true, pc := s.pc + 4, pcWritten := false, ir := s.loadWord s.pc,
        instructionCount := s.instructionCount + 1, cycleCount := s.cycleCount + 1, result := some .halted })

/-! ### SYSCALL (43_system.md) -/

/-- R290, R292 to R295 and R297's FREE: SYSCALL completes in every state, and this is its effect for each number. An
environment syscall draws its outcome on what R296 says the block presents: the number, x[0..15], ticks and the memory view,
which is the page table and the listed bytes of the pages that are PRESENT and READ (an unlisted byte is zero, log entry 7).
What the outcome does is `EnvironmentOutcomeStaysInItsView`, and what ALLOC does `AllocBumpsHeapByRoundedSize`. Rests on
the spec's own decisions D33, D34, D35 and D53, and on the model's choices of log entries 4 (the numbers, as
`Config.syscallOf`), 5 (the environment, as `Config.syscallEnv`) and 3 (the draw counter). -/
def Obligations.SyscallCompletesByItsNumber : Prop :=
  ∀ s : State, exec .syscall s = .next (
    match Config.syscallOf (s.reg 0) with
    | some .exit => { s with exitCode := s.reg 1, halted := true }
    | some .getTime => { s with regs := s.regs.set 0 (BitVec.ofNat 32 s.ticks.toNat) }
    | some .sleep => { s with
        ticks := BitVec.ofNat 64 (s.ticks.toNat + (s.reg 1).toNat),
        cycleCount := BitVec.ofNat 64 (s.cycleCount.toNat + (s.reg 1).toNat), regs := s.regs.set 0 0 }
    | some .alloc => syscallEffect (some .alloc) s
    | some .free => { s with regs := s.regs.set 0 0 }
    | some (.file _) => { s with regs := s.regs.set 0 0xFFFFFFFF }
    | none => { s with regs := s.regs.set 0 0xFFFFFFFF }
    | _ =>
      let presented : EnvRequest := {
        number := s.reg 0, x := s.regs, ticks := s.ticks, pages := s.pages,
        readable := s.mem.filter fun c => pageEntry s.pages (c.1 / 256) &&& 0x09 == 0x09 }
      { applyOutcome (Config.syscallEnv s.draws presented) s with draws := s.draws + 1 })

/-- R297: ALLOC of size 0 and an exhausted heap answer 0; otherwise it answers heap_base + heap_used and heap_used
grows by the least multiple of 4 that is at least the size. Rests on the spec's own decisions D33 and D53. -/
def Obligations.AllocBumpsHeapByRoundedSize : Prop :=
  ∀ s : State, ∃ r : Nat,
    r % 4 = 0 ∧ (s.reg 1).toNat ≤ r ∧ r < (s.reg 1).toNat + 4 ∧
    (s.reg 1 = 0 ∨ s.heapSize.toNat < s.heapUsed.toNat + r →
      syscallEffect (some .alloc) s = { s with regs := s.regs.set 0 0 }) ∧
    (s.reg 1 ≠ 0 → s.heapUsed.toNat + r ≤ s.heapSize.toNat →
      ∃ u : Word, u.toNat = s.heapUsed.toNat + r ∧
        syscallEffect (some .alloc) s =
          { s with regs := s.regs.set 0 (s.heapBase + s.heapUsed), heapUsed := u })

/-- The property of §8 that R297 quotes: two allocations that succeed one after the other are 4-byte-aligned, strictly
increasing, disjoint and inside the heap, where the heap starts at a multiple of 4 and does not wrap. Rests on the
spec's own decisions D15, D33 and D53. Rests on the spec's own decisions D15, D33 and D53. -/
def Obligations.SuccessiveAllocationsAreDisjoint : Prop :=
  ∀ (s : State) (n₁ n₂ : Word),
    s.heapBase.toNat % 4 = 0 → s.heapUsed.toNat % 4 = 0 → s.heapBase.toNat + s.heapSize.toNat ≤ 2 ^ 32 →
    let t₁ := syscallEffect (some .alloc) (s.setReg 1 n₁)
    let t₂ := syscallEffect (some .alloc) (t₁.setReg 1 n₂)
    t₁.reg 0 ≠ 0 → t₂.reg 0 ≠ 0 →
      (t₁.reg 0).toNat % 4 = 0 ∧ (t₂.reg 0).toNat % 4 = 0 ∧
      s.heapBase.toNat ≤ (t₁.reg 0).toNat ∧ (t₁.reg 0).toNat < (t₂.reg 0).toNat ∧
      (t₁.reg 0).toNat + n₁.toNat ≤ (t₂.reg 0).toNat ∧
      (t₂.reg 0).toNat + n₂.toNat ≤ s.heapBase.toNat + s.heapSize.toNat

/-- R296: an environment Result changes x[0] and memory alone; the byte writes that pass their check take effect in
order, so that a byte holds what the last of them to it wrote, and a byte changes only where its page is PRESENT and
WRITE; x[0] is all ones where the check of some read or write of the view fails, else the value. An environment Switch
loads the context and hands out the old one. Rests on the spec's own decision D35 and log entry 5 (among it, that a read of
no byte passes its check). -/
def Obligations.EnvironmentOutcomeStaysInItsView : Prop :=
  ∀ s : State, memWf s.mem →
    (∀ (v : Word) (reads : List (Word × Nat)) (writes : List (Word × Byte)), ∃ (m : Memory) (v₀ : Word),
      applyOutcome (.result v reads writes) s = { s with mem := m, regs := s.regs.set 0 v₀ } ∧
      ((∃ r ∈ reads, s.check .read r.1 r.2 ≠ none) ∨ (∃ w ∈ writes, s.check .write w.1 1 ≠ none) →
        v₀ = 0xFFFFFFFF) ∧
      ((∀ r ∈ reads, s.check .read r.1 r.2 = none) → (∀ w ∈ writes, s.check .write w.1 1 = none) → v₀ = v) ∧
      (∀ a, memRead m a =
        match (writes.filter fun w => w.1.toNat == a && (s.check .write w.1 1).isNone).getLast? with
        | some w => w.2
        | none => memRead s.mem a) ∧
      (∀ a, memRead m a ≠ memRead s.mem a →
        a < 65536 ∧ pagePresent (pageEntry s.pages (a / 256)) = true ∧
        pageWritable (pageEntry s.pages (a / 256)) = true ∧ ∃ w ∈ writes, w.1.toNat = a)) ∧
    (∀ ctx : Context, applyOutcome (.switch ctx) s =
      { s with
        handedContext := some ⟨s.regs, s.pc + 4, s.sp, s.fp, s.flags⟩,
        regs := ctx.x, pc := ctx.pc, sp := ctx.sp, fp := ctx.fp, flags := ctx.flags, pcWritten := true })

/-! ### Atomics (44_atomic.md) -/

/-- R310: rd gets the old word and the cell at x[rs1] the old x[rs2]; a failed check records MemoryFault(RMW) and
changes nothing else. Rests on the spec's own decisions D11, D20, D21, D24 and D25 and log entries 6 and 21. -/
def Obligations.XchgSwapsRegisterAndCellOrFaults : Prop :=
  ∀ (rd rs1 rs2 : Reg) (s : State), memWf s.mem →
    (s.check .rmw (s.reg rs1) 4 = none → ∃ m : Memory,
      exec (.xchg rd rs1 rs2) s =
        .next { s with mem := m, regs := s.regs.set rd (s.loadWord (s.reg rs1)) } ∧
      (∀ k < 4, memRead m ((s.reg rs1).toNat + k) = ((s.reg rs2) >>> (8 * k)).setWidth 8) ∧
      (∀ a, a < (s.reg rs1).toNat ∨ (s.reg rs1).toNat + 4 ≤ a → memRead m a = memRead s.mem a)) ∧
    (∀ r : Reason, s.check .rmw (s.reg rs1) 4 = some r →
      exec (.xchg rd rs1 rs2) s =
        .next { s with
          faulted := true, faultCause := 1,
          faultInfo := ⟨4, s.reg rs1, 4, r.code, s.ir⟩, result := some .fault })

/-- R311: the cell is replaced and rd is 1 where the old word equals the old x[rd]; otherwise rd is 0 and memory is
unchanged; a failed check records MemoryFault(RMW) and changes nothing else. Rests on the spec's own decisions D11,
D20, D24 and D25. -/
def Obligations.CasStoresOnlyOnMatchOrFaults : Prop :=
  ∀ (rd rs1 rs2 : Reg) (s : State), memWf s.mem →
    (s.check .rmw (s.reg rs1) 4 = none → s.loadWord (s.reg rs1) = s.reg rd → ∃ m : Memory,
      exec (.cas rd rs1 rs2) s = .next { s with mem := m, regs := s.regs.set rd 1 } ∧
      (∀ k < 4, memRead m ((s.reg rs1).toNat + k) = ((s.reg rs2) >>> (8 * k)).setWidth 8) ∧
      (∀ a, a < (s.reg rs1).toNat ∨ (s.reg rs1).toNat + 4 ≤ a → memRead m a = memRead s.mem a)) ∧
    (s.check .rmw (s.reg rs1) 4 = none → s.loadWord (s.reg rs1) ≠ s.reg rd →
      exec (.cas rd rs1 rs2) s = .next { s with regs := s.regs.set rd 0 }) ∧
    (∀ r : Reason, s.check .rmw (s.reg rs1) 4 = some r →
      exec (.cas rd rs1 rs2) s =
        .next { s with
          faulted := true, faultCause := 1,
          faultInfo := ⟨4, s.reg rs1, 4, r.code, s.ir⟩, result := some .fault })

/-- R312: rd gets the old word and the cell the integer sum modulo 2^32; no flag is written; a failed check records
MemoryFault(RMW) and changes nothing else. Rests on the spec's own decisions D11, D20, D24, D25 and D51. -/
def Obligations.FetchAndAddStoresSumOrFaults : Prop :=
  ∀ (rd rs1 rs2 : Reg) (s : State), memWf s.mem →
    (s.check .rmw (s.reg rs1) 4 = none → ∃ (m : Memory) (sum : Word),
      exec (.faddAtomic rd rs1 rs2) s =
        .next { s with mem := m, regs := s.regs.set rd (s.loadWord (s.reg rs1)) } ∧
      sum.toNat = ((s.loadWord (s.reg rs1)).toNat + (s.reg rs2).toNat) % 2 ^ 32 ∧
      (∀ k < 4, memRead m ((s.reg rs1).toNat + k) = (sum >>> (8 * k)).setWidth 8) ∧
      (∀ a, a < (s.reg rs1).toNat ∨ (s.reg rs1).toNat + 4 ≤ a → memRead m a = memRead s.mem a)) ∧
    (∀ r : Reason, s.check .rmw (s.reg rs1) 4 = some r →
      exec (.faddAtomic rd rs1 rs2) s =
        .next { s with
          faulted := true, faultCause := 1,
          faultInfo := ⟨4, s.reg rs1, 4, r.code, s.ir⟩, result := some .fault })

/-! ### Floating point (45_float.md) -/

/-- R331 to R334: each arithmetic instruction writes rd alone (and the model's draw counter): the pattern its own
operation gives, which `FpAddRoundsExactSumAndCommutes` states, or, where that operation gives NaN, a pattern with
exponent all ones and a nonzero fraction, of which nothing else is known. Rests on the spec's own decision D36 and log
entries 3 and 8. -/
def Obligations.FpArithmeticWritesResultOrSomeNan : Prop :=
  ∀ (rd rs1 rs2 : Reg) (s : State) (i : Instr) (f : Word → Word → Option Word),
    (i, f) ∈ [(Instr.fadd rd rs1 rs2, fpAdd), (Instr.fsub rd rs1 rs2, fpSub),
      (Instr.fmul rd rs1 rs2, fpMul), (Instr.fdiv rd rs1 rs2, fpDiv)] →
    (∀ v : Word, f (s.reg rs1) (s.reg rs2) = some v → exec i s = .next { s with regs := s.regs.set rd v }) ∧
    (f (s.reg rs1) (s.reg rs2) = none → ∃ v : Word,
      v.extractLsb' 23 8 = 0xFF#8 ∧ v.extractLsb' 0 23 ≠ 0#23 ∧
      exec i s = .next { s with regs := s.regs.set rd v, draws := s.draws + 1 })

/-- The NaN cases of R331 to R334: a NaN operand, inf - inf, 0 * inf, 0/0 and inf/inf, and no other. Rests on the
spec's own decision D36 and log entry 8. -/
def Obligations.FpResultIsNanOnlyWhereInvalid : Prop :=
  ∀ a b : Word,
    (fpAdd a b = none ↔ valueOf a = .nan ∨ valueOf b = .nan ∨
      (∃ s, valueOf a = .inf s ∧ valueOf b = .inf (!s))) ∧
    (fpSub a b = none ↔ valueOf a = .nan ∨ valueOf b = .nan ∨
      (∃ s, valueOf a = .inf s ∧ valueOf b = .inf s)) ∧
    (fpMul a b = none ↔ valueOf a = .nan ∨ valueOf b = .nan ∨
      (∃ s t, valueOf a = .inf s ∧ valueOf b = .finite t 0) ∨
      (∃ s t, valueOf a = .finite s 0 ∧ valueOf b = .inf t)) ∧
    (fpDiv a b = none ↔ valueOf a = .nan ∨ valueOf b = .nan ∨
      (∃ s t, valueOf a = .finite s 0 ∧ valueOf b = .finite t 0) ∨
      (∃ s t, valueOf a = .inf s ∧ valueOf b = .inf t))

/-- The layout and the rounding of R330. A pattern has its sign in bit 31, its exponent in bits 30:23 and its fraction
in bits 22:0, and a finite value is a number of units of 2^-149. Rounding is to nearest, ties to even: for a magnitude
of n / d units below the overflow threshold, the rounded pattern is a finite value that no finite pattern is nearer to
than, and where another value is as near, its last bit is 0; at or above the threshold it is infinity. A negative
magnitude gives the same pattern with the sign bit set. Rests on the spec's own decision D36 and log entry 8. -/
def Obligations.RoundingIsNearestTiesToEven : Prop :=
  (∀ w : Word, valueOf w =
    let e := w.toNat / 2 ^ 23 % 256
    let fraction := w.toNat % 2 ^ 23
    if e = 255 then (if fraction = 0 then .inf (w.getLsbD 31) else .nan)
    else .finite (w.getLsbD 31) (if e = 0 then fraction else (2 ^ 23 + fraction) * 2 ^ (e - 1))) ∧
  ∀ n d : Nat, 0 < d →
    ((2 ^ 25 - 1) * 2 ^ 253 * d ≤ 2 * n → valueOf (roundToPattern false n d) = .inf false) ∧
    (2 * n < (2 ^ 25 - 1) * 2 ^ 253 * d → ∃ r : Nat,
      valueOf (roundToPattern false n d) = .finite false r ∧
      ∀ (w : Word) (neg : Bool) (u : Nat), valueOf w = .finite neg u →
        |(n : Int) - r * d| ≤ |(n : Int) - u * d| ∧
        (|(n : Int) - r * d| = |(n : Int) - u * d| → u ≠ r → (roundToPattern false n d).getLsbD 0 = false)) ∧
    (roundToPattern false n d).getLsbD 31 = false ∧
    roundToPattern true n d = roundToPattern false n d ||| 0x80000000

/-- The operations of FADD, FSUB, FMUL and FDIV where the result is not NaN (R331 to R334). On finite operands each is the
exact sum, difference, product or quotient of the values, rounded; a zero sum or difference is +0 unless both addends are
negative, and a zero product or quotient has the exclusive or of the signs, as has the infinity of a nonzero value over a
zero. With an infinite operand the result is an infinity, or the zero of a finite value over an infinity. FADD and FMUL
commute. Rests on the spec's own decision D36 and log entry 8. -/
def Obligations.FpAddRoundsExactSumAndCommutes : Prop :=
  let inf : Bool → Word := fun neg => if neg then 0xFF800000 else 0x7F800000
  let zero : Bool → Word := fun neg => if neg then 0x80000000 else 0
  let rounded : Int → Word := fun x => roundToPattern (decide (x < 0)) x.natAbs 1
  ∀ a b : Word, fpAdd a b = fpAdd b a ∧ fpMul a b = fpMul b a ∧
    (∀ (p q : Bool) (m n : Nat), valueOf a = .finite p m → valueOf b = .finite q n →
      (signed p m + signed q n = 0 → fpAdd a b = some (zero (p && q))) ∧
      (signed p m + signed q n ≠ 0 → fpAdd a b = some (rounded (signed p m + signed q n))) ∧
      (signed p m - signed q n = 0 → fpSub a b = some (zero (p && !q))) ∧
      (signed p m - signed q n ≠ 0 → fpSub a b = some (rounded (signed p m - signed q n))) ∧
      (m * n = 0 → fpMul a b = some (zero (p != q))) ∧
      (m * n ≠ 0 → fpMul a b = some (roundToPattern (p != q) (m * n) (2 ^ 149))) ∧
      (m = 0 → n ≠ 0 → fpDiv a b = some (zero (p != q))) ∧
      (m ≠ 0 → n ≠ 0 → fpDiv a b = some (roundToPattern (p != q) (m * 2 ^ 149) n)) ∧
      (m ≠ 0 → n = 0 → fpDiv a b = some (inf (p != q)))) ∧
    (∀ (p q : Bool) (n : Nat), valueOf a = .inf p → valueOf b = .finite q n →
      fpAdd a b = some (inf p) ∧ fpSub a b = some (inf p) ∧
      (n ≠ 0 → fpMul a b = some (inf (p != q))) ∧ fpDiv a b = some (inf (p != q))) ∧
    (∀ (p q : Bool) (m : Nat), valueOf a = .finite p m → valueOf b = .inf q →
      fpAdd a b = some (inf q) ∧ fpSub a b = some (inf (!q)) ∧
      (m ≠ 0 → fpMul a b = some (inf (p != q))) ∧ fpDiv a b = some (zero (p != q))) ∧
    (∀ p q : Bool, valueOf a = .inf p → valueOf b = .inf q →
      (p = q → fpAdd a b = some (inf p)) ∧ (p ≠ q → fpSub a b = some (inf p)) ∧ fpMul a b = some (inf (p != q)))

/-- R335: Z equal, N less, C unordered, V 0; no register is written. Values are ordered as numbers, an infinity beyond
every finite value, and +0 and -0 are equal. Rests on the spec's own decision D37 and log entry 8 (the binary32
layout). -/
def Obligations.FcmpWritesOrderFlags : Prop :=
  ∀ (rs1 rs2 : Reg) (s : State), ∃ f : Flags,
    exec (.fcmp rs1 rs2) s = .next { s with flags := f } ∧ f.v = false ∧
    (f.c = true ↔ valueOf (s.reg rs1) = .nan ∨ valueOf (s.reg rs2) = .nan) ∧
    (f.c = true → f.z = false ∧ f.n = false) ∧
    (∀ (p q : Bool) (m n : Nat), valueOf (s.reg rs1) = .finite p m → valueOf (s.reg rs2) = .finite q n →
      (f.z = true ↔ signed p m = signed q n) ∧ (f.n = true ↔ signed p m < signed q n)) ∧
    (∀ (p q : Bool), valueOf (s.reg rs1) = .inf p → valueOf (s.reg rs2) = .inf q →
      (f.z = true ↔ p = q) ∧ (f.n = true ↔ p = true ∧ q = false)) ∧
    (∀ (p q : Bool) (n : Nat), valueOf (s.reg rs1) = .inf p → valueOf (s.reg rs2) = .finite q n →
      f.z = false ∧ f.n = p) ∧
    (∀ (p q : Bool) (m : Nat), valueOf (s.reg rs1) = .finite p m → valueOf (s.reg rs2) = .inf q →
      f.z = false ∧ f.n = !q)

/-- R336: the signed integer rounded to binary32; an integer of magnitude at most 2^24 is exact. Rests on the spec's
own decisions D36 and D38 and log entry 8 (the binary32 layout and rounding). -/
def Obligations.FcvtRoundsSignedInteger : Prop :=
  ∀ (rd rs1 : Reg) (s : State), ∃ v : Word,
    exec (.fcvt rd rs1) s = .next { s with regs := s.regs.set rd v } ∧
    v = roundToPattern (decide ((s.reg rs1).toInt < 0)) ((s.reg rs1).toInt.natAbs * 2 ^ 149) 1 ∧
    ((s.reg rs1).toInt.natAbs ≤ 2 ^ 24 →
      valueOf v = .finite (decide ((s.reg rs1).toInt < 0)) ((s.reg rs1).toInt.natAbs * 2 ^ 149))

/-- R337: truncation toward zero where the value has a signed 32-bit integer; otherwise rd gets the draw ICVT_INVALID,
of which nothing is known, and the instruction still completes. Rests on the spec's own decision D38 and log entries 3
and 8 (the draw, and the binary32 layout). -/
def Obligations.IcvtTruncatesOrDraws : Prop :=
  ∀ (rd rs1 : Reg) (s : State),
    (∀ (neg : Bool) (u : Nat), valueOf (s.reg rs1) = .finite neg u →
      -2 ^ 31 ≤ signed neg (u / 2 ^ 149) → signed neg (u / 2 ^ 149) < 2 ^ 31 →
      ∃ v : Word, v.toInt = signed neg (u / 2 ^ 149) ∧
        exec (.icvt rd rs1) s = .next { s with regs := s.regs.set rd v }) ∧
    ((∀ (neg : Bool) (u : Nat), valueOf (s.reg rs1) = .finite neg u →
        ¬ (-2 ^ 31 ≤ signed neg (u / 2 ^ 149) ∧ signed neg (u / 2 ^ 149) < 2 ^ 31)) →
      ∃ v : Word, exec (.icvt rd rs1) s = .next { s with regs := s.regs.set rd v, draws := s.draws + 1 })

/-- R336 and R337 together: an integer of magnitude at most 2^24 survives FCVT and then ICVT. Rests on the spec's own
decisions D36 and D38 and log entry 8. Rests on the spec's own decisions D36 and D38. -/
def Obligations.IcvtInvertsFcvtOnSmallIntegers : Prop :=
  ∀ (rd rs1 : Reg) (s t : State), (s.reg rs1).toInt.natAbs ≤ 2 ^ 24 → exec (.fcvt rd rs1) s = .next t →
    exec (.icvt rd rd) t = .next { s with regs := s.regs.set rd (s.reg rs1) }

/-! ### SIMD (46_simd.md) -/

/-- R371 to R373 in the lanes of R370: each lane of the result is the sum, difference or product of the lanes modulo
256, whatever the other lanes hold; no flag is written. Rests on the spec's own decision D39. -/
def Obligations.SimdLanesAreIndependentModulo256 : Prop :=
  ∀ (rd rs1 rs2 : Reg) (s : State), ∃ x y z : Word,
    exec (.vadd rd rs1 rs2) s = .next { s with regs := s.regs.set rd x } ∧
    exec (.vsub rd rs1 rs2) s = .next { s with regs := s.regs.set rd y } ∧
    exec (.vmul rd rs1 rs2) s = .next { s with regs := s.regs.set rd z } ∧
    ∀ k < 4,
      let a := (s.reg rs1).toNat / 256 ^ k % 256
      let b := (s.reg rs2).toNat / 256 ^ k % 256
      x.toNat / 256 ^ k % 256 = (a + b) % 256 ∧
      y.toNat / 256 ^ k % 256 = (a + 256 - b) % 256 ∧
      z.toNat / 256 ^ k % 256 = a * b % 256

/-- R374: the exact sum of the four unsigned lane products; no flag is written. Rests on the spec's own decision D39. -/
def Obligations.VdotIsExactSumOfLaneProducts : Prop :=
  ∀ (rd rs1 rs2 : Reg) (s : State), ∃ r : Word,
    exec (.vdot rd rs1 rs2) s = .next { s with regs := s.regs.set rd r } ∧
    r.toNat = ((List.range 4).map fun k =>
      ((s.reg rs1).toNat / 256 ^ k % 256) * ((s.reg rs2).toNat / 256 ^ k % 256)).sum ∧
    r.toNat ≤ 260100

/-! ### Memory and the access check (20_memory.md) -/

/-- R13 and R108: a word is its four bytes, the lowest address the least significant. Rests on the spec's own decision
D11. -/
def Obligations.LoadWordIsLittleEndian : Prop :=
  ∀ (s : State) (a : Word),
    (s.loadWord a).toNat = (s.byte a.toNat).toNat + 2 ^ 8 * (s.byte (a.toNat + 1)).toNat +
      2 ^ 16 * (s.byte (a.toNat + 2)).toNat + 2 ^ 24 * (s.byte (a.toNat + 3)).toNat

/-- R110 by bytes: a check of no byte passes, which R110 says of a host access and the model chooses for a read by the
environment (log entry 5); a check of at least one fails RANGE exactly where the exact sum passes MEM_SIZE; otherwise it
passes exactly where the page of every byte answers no reason, and a reason it gives is that of some byte's page, no lower
byte's page answering any. Rests on the spec's own decision D13 and log entry 5. -/
def Obligations.AccessCheckDecidesByEveryByte : Prop :=
  ∀ (s : State) (k : AccessKind) (a : Word), s.check k a 0 = none ∧ ∀ n : Nat, 0 < n →
    (s.check k a n = some .range ↔ 65536 < a.toNat + n) ∧
    (a.toNat + n ≤ 65536 →
      (s.check k a n = none ↔
        ∀ b, a.toNat ≤ b → b < a.toNat + n → pageReason k (pageEntry s.pages (b / 256)) = none) ∧
      (∀ r, s.check k a n = some r →
        ∃ b, a.toNat ≤ b ∧ b < a.toNat + n ∧ pageReason k (pageEntry s.pages (b / 256)) = some r ∧
          ∀ c, a.toNat ≤ c → c / 256 < b / 256 → pageReason k (pageEntry s.pages (c / 256)) = none))

/-- R104 with the bits of R103: what one page entry must hold for each kind of access. Rests on the spec's own decisions
D14, D20, D22 and D42. -/
def Obligations.PageGrantsExactlyTheNeededBits : Prop :=
  ∀ (e : Byte) (i : Irq),
    (pageReason .fetch e = none ↔ e &&& 0x0D = 0x0D) ∧
    (pageReason .rmw e = none ↔ e &&& 0x0B = 0x0B) ∧
    (pageReason .push e = none ↔ e &&& 0x0A = 0x0A) ∧
    (pageReason (.irqPush i) e = none ↔ e &&& 0x0A = 0x0A) ∧
    (pageReason .pop e = none ↔ e &&& 0x09 = 0x09) ∧
    (pageReason .read e = none ↔ e &&& 0x09 = 0x09) ∧
    (pageReason .write e = none ↔ e &&& 0x0A = 0x0A) ∧
    (pageReason .load e = none ↔ e &&& 0x08 = 0x08) ∧
    (∀ k : AccessKind, pageReason k e = some .notPresent ↔ e &&& 0x08 = 0)

/-- A write through the host port is read back, and one whose check fails answers -1 and leaves the machine unchanged
(R114). Rests on the spec's own decision D13. -/
def Obligations.HostWriteIsReadBackOrRefused : Prop :=
  ∀ (addr : Word) (buf : List Byte) (s : State), memWf s.mem →
    (s.check .write addr buf.length = none → ∃ m : Memory,
      writeMemory addr buf s = ({ s with mem := m }, .done) ∧ memReadBytes m addr.toNat buf.length = buf ∧
      (∀ a, a < addr.toNat ∨ addr.toNat + buf.length ≤ a → memRead m a = memRead s.mem a)) ∧
    (s.check .write addr buf.length ≠ none → writeMemory addr buf s = (s, .failed)) ∧
    (∀ n, s.check .read addr n = none → readMemory addr n s = some (memReadBytes s.mem addr.toNat n)) ∧
    (∀ n, s.check .read addr n ≠ none → readMemory addr n s = none)

/-- The headline of memory protection (R104, R110, R111): whatever instruction runs and whatever interrupt is
dispatched, a step changes a byte of memory only in range and only on a page that is PRESENT and WRITE. Rests on the
spec's own decisions D13, D14, D20, D22 and D35. -/
def Obligations.StepWritesOnlyWritablePages : Prop :=
  ∀ s t : State, s.Inv → step s = .next t → ∀ a : Nat, t.byte a ≠ s.byte a →
    a < 65536 ∧ pagePresent (pageEntry s.pages (a / 256)) = true ∧ pageWritable (pageEntry s.pages (a / 256)) = true

/-! ### Encoding (30_encoding.md) -/

/-- Decode and encode agree: under every injective and total opcode map, every well-formed instruction is read back
from its word and from its word's bytes. Rests on the spec's own decisions D1, D2 and D3. -/
def Obligations.DecodeInvertsEncode : Prop :=
  ∀ (m : OpcodeMap) (i : Instr), OpcodeMap.wf m = true → i.wf m = true →
    decodeWord m (encode m i) = .ok i ∧ decodeBytes m (bytesOfWord (encode m i)) = .ok (i, [])

/-- R158: the round trip of the three encoders, field by field. -/
def Obligations.EncodersRoundTripEveryField : Prop :=
  ∀ (m : OpcodeMap) (op rd rs1 rs2 : Nat) (imm16 imm24 : Int),
    op < 256 → rd < 16 → rs1 < 16 → rs2 < 16 →
    -32768 ≤ imm16 → imm16 ≤ 32767 → -8388608 ≤ imm24 → imm24 ≤ 8388607 →
    ((decodeFields m (encodeR op rd rs1 rs2)).opcode.toNat = op ∧
      (decodeFields m (encodeR op rd rs1 rs2)).rd.val = rd ∧
      (decodeFields m (encodeR op rd rs1 rs2)).rs1.val = rs1 ∧
      (decodeFields m (encodeR op rd rs1 rs2)).rs2.val = rs2) ∧
    ((decodeFields m (encodeI op rd imm16)).opcode.toNat = op ∧
      (decodeFields m (encodeI op rd imm16)).rd.val = rd ∧
      (decodeFields m (encodeI op rd imm16)).imm.toInt = imm16) ∧
    ((decodeFields m (encodeJ op imm24)).opcode.toNat = op ∧
      (decodeFields m (encodeJ op imm24)).target.toInt = imm24)

/-- R155: a word that differs only in the bits its instruction ignores decodes to the same instruction. Rests on the
spec's own decision D3. -/
def Obligations.IgnoredBitsDoNotChangeTheInstruction : Prop :=
  ∀ (m : OpcodeMap) (w junk : Word) (i : Instr), decodeWord m w = .ok i →
    decodeWord m (w ^^^ (junk &&& i.op.ignoredMask)) = .ok i

/-- R162 at the default opcode map (decision D1): an opcode byte outside the 38 rows, one of 218, is rejected by name.
Rests on the spec's own decisions D1 and D52. -/
def Obligations.UnassignedOpcodesAreRejected : Prop :=
  OpcodeMap.wf defaultOpcodeMap = true ∧
  ((List.range 256).filter fun b => (lookupOp defaultOpcodeMap (BitVec.ofNat 8 b)).isNone).length = 218 ∧
  ∀ w : Word, lookupOp defaultOpcodeMap (opcodeOf w) = none →
    decodeWord defaultOpcodeMap w = .error (.unknownOpcode w)

/-- Words of 30_encoding.md and 95_test_vectors.md decode to the instructions they stand for (decision D1). Rests on
the spec's own decisions D1, D2 and D3. -/
def Obligations.SampleWordsDecode : Prop :=
  decodeWord defaultOpcodeMap 0x01F3A1B2 = .ok (.add 3 1 2) ∧
  decodeWord defaultOpcodeMap 0x1001FFFF = .ok (.loadi 1 0xFFFFFFFF) ∧
  decodeWord defaultOpcodeMap 0x20FFFFFC = .ok (.jmp 0xFFFFFFFC) ∧
  decodeWord defaultOpcodeMap 0x24000000 = .ok .ret ∧
  decodeWord defaultOpcodeMap 0x30000000 = .ok .syscall ∧
  decodeWord defaultOpcodeMap 0x41060107 = .ok (.cas 6 1 7) ∧
  decodeWord defaultOpcodeMap 0x54000502 = .ok (.fcmp 5 2) ∧
  decodeWord defaultOpcodeMap 0x63060102 = .ok (.vdot 6 1 2)

/-! ### The control FSM (60_exceptions.md) -/

/-- A step runs the decoded instruction (R401, R406, R407, R409): in a state that is not halted, with no break request and
not at an enabled breakpoint, where the four bytes at pc pass the fetch check and decode to i, the step is exec of i at the
address of the word, and then the end of the step, with no dispatch before the instruction. That `result` is cleared and the
word kept in `ir` is the model's form (log entry 2). Rests on the spec's own decisions D26, D27 and D48 (the order of R401)
and on log entry 2. -/
def Obligations.StepRunsTheDecodedInstruction : Prop :=
  ∀ (s : State) (i : Instr),
    s.breakRequest = false → s.halted = false → (s.dbgEnabled = true → s.pc ∉ s.breakpoints) →
    s.check .fetch s.pc 4 = none →
    decodeBytes s.params.opcodeMap (memReadBytes s.mem s.pc.toNat 4) = .ok (i, []) →
    step s =
      match exec i { s with pcWritten := false, result := none, ir := s.loadWord s.pc } with
      | .next u => .next (finishStep u)
      | .fault f => .fault f
      | .refused r => .refused r

/-- The end of the step after an instruction's own rule (R401). A fault ends the step there. Otherwise the instruction
retires: pc advances by 4 unless it was written (R410), and both counters by 1 (R445, R446). Then, where HALT or EXIT set
`halted`, the step returns Halted with no dispatch (R411); otherwise the dispatcher runs on the retired state (R433), and the
result is Fault where its push failed (R437), else Paused in single-step mode, else Continue (R405); with no vector to
dispatch the dispatcher changes nothing. Rests on the spec's own decisions D23, D27, D30, D31, D45 and D56. -/
def Obligations.RetireAdvancesPcAndCounters : Prop :=
  ∀ u : State,
    let r : State := { u with
      pc := if u.pcWritten then u.pc else u.pc + 4,
      instructionCount := u.instructionCount + 1, cycleCount := u.cycleCount + 1 }
    (u.result = some .fault → finishStep u = u) ∧
    (u.result ≠ some .fault → u.halted = true → finishStep u = { r with result := some .halted }) ∧
    (u.result ≠ some .fault → u.halted = false →
      ((dispatchIrq r).result = some .fault → finishStep u = dispatchIrq r) ∧
      ((dispatchIrq r).result ≠ some .fault →
        finishStep u = { dispatchIrq r with result := some (if u.singleStep then .paused else .continued) }) ∧
      ((u.irqGlobalEnable = false ∨ ∀ i : Irq, (u.vec[i].pending && u.vec[i].enabled) = false) →
        finishStep u = { r with result := some (if u.singleStep then .paused else .continued) }))

/-- R402, R403 and R404 in their order: a break request halts the CPU and is cleared; a halted CPU changes nothing; an
enabled breakpoint at pc pauses and changes nothing. Rests on the spec's own decisions D26, D40, D48 and D49. -/
def Obligations.IdleStepsRunNoInstruction : Prop :=
  ∀ s : State,
    (s.breakRequest = true →
      step s = .next { s with breakRequest := false, halted := true, result := some .halted }) ∧
    (s.breakRequest = false → s.halted = true → step s = .next { s with result := some .halted }) ∧
    (s.breakRequest = false → s.halted = false → s.dbgEnabled = true → s.pc ∈ s.breakpoints →
      step s = .next { s with result := some .paused })

/-- R406 and R408: a failed fetch records MemoryFault(FETCH), an opcode outside the map records IllegalOpcode with the
word; but for the step's own signals nothing else changes. The reason of a MemoryFault is recorded by its code of R422, here
and in every statement that records one. Rests on the spec's own decisions D24, D25 and D44 and log entries 6 and 21. -/
def Obligations.FetchAndDecodeFaultsAreRecorded : Prop :=
  Reason.range.code = 1 ∧ Reason.notPresent.code = 2 ∧ Reason.permission.code = 3 ∧
  ∀ s : State, s.breakRequest = false → s.halted = false → s.atBreakpoint = false →
    (∀ r : Reason, s.check .fetch s.pc 4 = some r →
      step s = .next { s with
        pcWritten := false, faulted := true, faultCause := 1,
        faultInfo := ⟨1, s.pc, 4, r.code, 0⟩, result := some .fault }) ∧
    (s.check .fetch s.pc 4 = none → lookupOp s.params.opcodeMap (opcodeOf (s.loadWord s.pc)) = none →
      step s = .next { s with
        pcWritten := false, ir := s.loadWord s.pc, faulted := true, faultCause := 3,
        faultInfo := ⟨11, s.pc, 0, 5, s.loadWord s.pc⟩, result := some .fault })

/-- R400 and R411: every step of every state answers a next state with one of the four results. Rests on the spec's
own decision D24 and log entry 6. -/
def Obligations.EveryStepReturnsAResult : Prop :=
  ∀ s : State, ∃ (t : State) (r : StepResult), step s = .next t ∧ t.result = some r

/-- R413: a step that ends in a fault of fetch, decode or an instruction writes the fault record and the step's own
signals (`pcWritten`, `ir`, `result`) and nothing else, so pc is at the faulting word; but where the cause is
ArithmeticFault the word at pc is DIV or MOD and its rd is zeroed. A fault of the dispatch push, kind 7, comes after its
instruction has retired (R437, R445). Rests on the spec's own decisions D24, D25, D30 and D45 and log entries 6 and 21.
-/
def Obligations.FaultsArePrecise : Prop :=
  ∀ s t : State, step s = .next t → t.result = some .fault →
    (t.faultInfo.kind ≠ 7 →
      t = { s with
        regs := t.regs, pcWritten := false, ir := t.ir, faulted := true, faultCause := t.faultCause,
        faultInfo := t.faultInfo, result := some .fault } ∧
      (t.faultCause ≠ 2 → t.regs = s.regs) ∧
      (t.faultCause = 2 → ∃ rd rs1 rs2 : Reg, t.regs = s.regs.set rd 0 ∧
        (decodeWord s.params.opcodeMap (s.loadWord s.pc) = .ok (.div rd rs1 rs2) ∨
          decodeWord s.params.opcodeMap (s.loadWord s.pc) = .ok (.mod rd rs1 rs2)))) ∧
    (t.faultInfo.kind = 7 →
      t.instructionCount = s.instructionCount + 1 ∧ t.faulted = true ∧ t.faultCause = 1)

/-- R445: a step adds 1 to instruction_count exactly where it retired an instruction, which its result tells (R411): every
Continue; a Halted step that began running and with no break request (HALT, EXIT); a Paused step that did not begin at an
enabled breakpoint (single-step mode); and a Fault of the dispatch push alone, kind 7. Every other step leaves it. Rests on
the spec's own decisions D25, D30 and D45 and log entry 6. -/
def Obligations.InstructionCountCountsRetiredSteps : Prop :=
  ∀ s t : State, step s = .next t →
    let retired : Prop := match t.result with
      | some .continued => True
      | some .halted => s.breakRequest = false ∧ s.halted = false
      | some .paused => ¬ (s.dbgEnabled = true ∧ s.pc ∈ s.breakpoints)
      | some .fault => t.faultInfo.kind = 7
      | none => False
    (retired → t.instructionCount = s.instructionCount + 1) ∧
    (¬ retired → t.instructionCount = s.instructionCount)

/-- R433 and R434: with the global enable set and a vector pending and enabled, the lowest such vector is dispatched:
pc is pushed, pc is its handler, it is no longer pending, and nothing else changes. Rests on the spec's own decisions
D11, D22, D27 and D28. -/
def Obligations.DispatchEntersLowestReadyHandler : Prop :=
  ∀ (s : State) (i : Irq), memWf s.mem → s.irqGlobalEnable = true →
    s.vec[i].pending = true → s.vec[i].enabled = true →
    (∀ j < i, (s.vec[j].pending && s.vec[j].enabled) = false) →
    s.check (.irqPush i) (s.sp - 4) 4 = none → ∃ m : Memory,
      dispatchIrq s = { s with
        mem := m, sp := s.sp - 4, pc := s.vec[i].handlerAddr,
        vec := s.vec.set i { s.vec[i] with pending := false } } ∧
      (∀ k < 4, memRead m ((s.sp - 4).toNat + k) = (s.pc >>> (8 * k)).setWidth 8) ∧
      (∀ a, a < (s.sp - 4).toNat ∨ (s.sp - 4).toNat + 4 ≤ a → memRead m a = memRead s.mem a)

/-- R437: a dispatch push that fails records MemoryFault(IRQ_PUSH) with the vector's number, and nothing else changes:
the vector stays pending. Rests on the spec's own decisions D24, D25 and D30. -/
def Obligations.FailedDispatchPushIsRecorded : Prop :=
  ∀ (s : State) (i : Irq) (r : Reason), s.irqGlobalEnable = true →
    s.vec[i].pending = true → s.vec[i].enabled = true →
    (∀ j < i, (s.vec[j].pending && s.vec[j].enabled) = false) →
    s.check (.irqPush i) (s.sp - 4) 4 = some r →
      dispatchIrq s = { s with
        faulted := true, faultCause := 1,
        faultInfo := ⟨7, s.sp - 4, 4, r.code, BitVec.ofNat 32 i.val⟩, result := some .fault }

/-- R435: a handler entered by dispatch that runs RET at once returns to the interrupted address with sp as it was.
Rests on the spec's own decisions D22 and D28. -/
def Obligations.HandlerReturnsWithRet : Prop :=
  ∀ (s : State) (i : Irq), memWf s.mem → s.irqGlobalEnable = true → s.readyVector = some i →
    s.check (.irqPush i) (s.sp - 4) 4 = none → s.check .pop (s.sp - 4) 4 = none →
    ∃ u : State, exec .ret (dispatchIrq s) = .next u ∧ u.pc = s.pc ∧ u.sp = s.sp ∧ u.flags = s.flags ∧
      u.regs = s.regs ∧ u.irqGlobalEnable = true

/-! ### Whole-machine rules -/

/-- R48: an instruction that is no writer of its table leaves all four flags unchanged (SYSCALL apart, whose Switch
outcome loads a context). Rests on the spec's own decisions D6 and D35. -/
def Obligations.OnlyFlagWritersChangeFlags : Prop :=
  ∀ (i : Instr) (s t : State), exec i s = .next t → t.flags ≠ s.flags →
    i.op ∈ [Op.add, .sub, .cmp, .mul, .div, .mod, .and, .or, .xor, .test, .fcmp, .syscall]

/-- R44 and R45: only CALL, RET and SYSCALL change sp, CALL and RET by exactly 4; only SYSCALL changes fp. Rests on
the spec's own decisions D22 and D60. -/
def Obligations.StackPointerMovesByFour : Prop :=
  ∀ (i : Instr) (s t : State), i ≠ .syscall → exec i s = .next t →
    t.fp = s.fp ∧
    (t.sp = s.sp ∨ (i.op = .call ∧ t.sp = s.sp - 4) ∨ (i.op = .ret ∧ t.sp = s.sp + 4))

/-- R52 to R54 and R59: no step reaches the page table, the global enable, a handler address, a vector's enable bit,
the debugger inputs or the parameters, and a step makes no vector pending. Rests on the spec's own decisions D52, D57
and log entry 1. -/
def Obligations.StepLeavesHostControlledState : Prop :=
  ∀ s t : State, step s = .next t →
    t.pages = s.pages ∧ t.irqGlobalEnable = s.irqGlobalEnable ∧ t.dbgEnabled = s.dbgEnabled ∧
    t.singleStep = s.singleStep ∧ t.breakpoints = s.breakpoints ∧ t.params = s.params ∧
    t.heapBase = s.heapBase ∧ t.heapSize = s.heapSize ∧
    ∀ i : Irq, t.vec[i].handlerAddr = s.vec[i].handlerAddr ∧ t.vec[i].enabled = s.vec[i].enabled ∧
      (t.vec[i].pending = true → s.vec[i].pending = true)

/-- The invariant that every step keeps: memory stays in canonical form, with no byte at or above 0x10000 (R100), and
the breakpoints stay a set of at most 16 (R54). The form of memory and of the breakpoint list is the model's (log
entries 7 and 15). Rests on the spec's own decisions D16 and D40. -/
def Obligations.StepKeepsInvariant : Prop :=
  ∀ s t : State, s.Inv → step s = .next t → t.Inv

/-- Every host operation keeps the invariant (R54, R100, R114, R116, R440, R470). The form of memory and of the
breakpoint list is the model's (log entries 7 and 15), and so is that of the bytes a reset leaves (log entry 10).
Rests on the spec's own decisions D19, D40 and D42. -/
def Obligations.HostOperationsKeepInvariant : Prop :=
  ∀ (op : HostOp) (s : State), s.Inv → (hostOp op s).Inv

/-- R471: once halted, every step and every host operation but `reset` leaves the CPU halted, and `reset` leaves it
running. Rests on the spec's own decisions D26 and D49. -/
def Obligations.OnlyResetLeavesHalted : Prop :=
  ∀ s : State, s.halted = true →
    (∀ t, step s = .next t → t.halted = true ∧ t.result = some .halted) ∧
    (∀ op : HostOp, (hostOp op s).halted = false ↔ op = .reset)

/-! ### Reset and the host ports -/

/-- R60 and R106 at the default parameters: the state right after create and init meets the invariant, and its fields have
the values of the table, memory zero as create leaves it. The reset port (R470), in every state, gives these same values with
the state's own parameters in place of the defaults; its memory bytes are open, but zero where RESET_CLEARS_MEMORY holds, and
the model's draw counter goes on. Rests on the spec's own decisions D15, D17, D18, D19, D24, D29, D32, D48 and D62 and log
entries 1, 2, 3, 7, 9, 10 and 12. -/
def Obligations.ResetEstablishesInvariantAndValues : Prop :=
  State.reset.Inv ∧
  (∀ r : Reg, State.reset.reg r = 0) ∧ State.reset.pc = 0 ∧ State.reset.sp = 0x10000 ∧ State.reset.fp = 0 ∧
  packFlags State.reset.flags = 0 ∧ State.reset.halted = false ∧ State.reset.exitCode = 0 ∧
  State.reset.faulted = false ∧ State.reset.faultCause = 0 ∧ State.reset.faultInfo = ⟨0, 0, 0, 0, 0⟩ ∧
  (∀ a, State.reset.byte a = 0) ∧
  (∀ p < 256, pageEntry State.reset.pages p =
    if p ≤ 0x3F then 0x0D else if p ≤ 0xBF then 0x0B else if p ≤ 0xDF then 0x00 else 0x0B) ∧
  State.reset.irqGlobalEnable = false ∧ (∀ i : Irq, State.reset.vec[i] = ⟨0, false, false⟩) ∧
  State.reset.dbgEnabled = false ∧ State.reset.singleStep = false ∧ State.reset.breakpoints = [] ∧
  State.reset.breakRequest = false ∧ State.reset.instructionCount = 0 ∧ State.reset.cycleCount = 0 ∧
  State.reset.ticks = 0 ∧ State.reset.heapBase = 0x4000 ∧ State.reset.heapSize = 0x8000 ∧ State.reset.heapUsed = 0 ∧
  ∀ s : State, ∃ m : Memory, memWf m ∧ (Config.resetClearsMemory = true → ∀ a, memRead m a = 0) ∧
    hostOp .reset s = { State.reset with
      mem := m, params := s.params, sp := s.params.spReset, pages := defaultPages s.params,
      heapBase := s.params.heapBase, heapSize := s.params.heapSize, draws := s.draws + 1 }

/-- R431 and R432: the two vector ports, for an index in range and outside it. Rests on the spec's own decisions D46,
D57 and D61. -/
def Obligations.VectorPortsChangeOneVector : Prop :=
  ∀ (irq : Int) (addr : Word) (s : State),
    (¬ (0 ≤ irq ∧ irq < 32) →
      setHandler irq addr s = (s, .failed) ∧ trigger irq s = (s, .failed)) ∧
    (∀ i : Irq, irq = i.val → ∃ u v : State,
      setHandler irq addr s = (u, .done) ∧ trigger irq s = (v, .done) ∧
      u = { s with vec := u.vec } ∧ v = { s with vec := v.vec } ∧
      u.vec[i] = ⟨addr, true, s.vec[i].pending⟩ ∧
      v.vec[i] = ⟨s.vec[i].handlerAddr, s.vec[i].enabled, true⟩ ∧
      ∀ j : Irq, j ≠ i → u.vec[j] = s.vec[j] ∧ v.vec[j] = s.vec[j])

/-- R412: `run` returns exit_code on Halted, -1 on a Fault, RUN_PAUSED_VALUE on Paused, and goes on after Continue.
The budget of steps is the model's form (log entry 17), and the value on Paused is an opaque constant (the spec's own
decision D41, log entry 20). Rests on the spec's own decision D41. -/
def Obligations.RunReturnsByStepResult : Prop :=
  ∀ (budget : Nat) (s t : State), step s = .next t →
    (t.result = some .halted → run (budget + 1) s = .returned t.exitCode t) ∧
    (t.result = some .fault → run (budget + 1) s = .returned 0xFFFFFFFF t) ∧
    (t.result = some .paused → run (budget + 1) s = .returned Config.runPausedValue t) ∧
    (t.result = some .continued → run (budget + 1) s = run budget t)
end

