-- ==== Sys2Proof/Laws/Memory.lean ====
section
/-! SUPPORT. The laws of the memory operations: reading after writing, and that every operation keeps the canonical form. -/

namespace Sys2Proof.Machine

/-! ### Reading -/

@[simp] theorem memRead_nil (a : Nat) : memRead [] a = unlistedByte := rfl

theorem memRead_cons (b : Nat) (v : Byte) (m : Memory) (a : Nat) :
    memRead ((b, v) :: m) a = if a = b then v else memRead m a := rfl

theorem memRead_of_unlisted {m : Memory} {a : Nat} (h : ∀ p ∈ m, p.1 ≠ a) : memRead m a = unlistedByte := by
  induction m with
  | nil => rfl
  | cons p m ih =>
    obtain ⟨b, v⟩ := p
    have hb : b ≠ a := h (b, v) (by simp)
    rw [memRead_cons, if_neg (Ne.symm hb)]
    exact ih fun q hq => h q (by simp [hq])

theorem memRead_memCell_append (a : Nat) (v : Byte) (m : Memory) (b : Nat)
    (h : ∀ p ∈ m, p.1 ≠ a) :
    memRead (memCell a v ++ m) b = if b = a then v else memRead m b := by
  unfold memCell
  split
  · next hv =>
    by_cases hb : b = a
    · subst hb; simp [memRead_of_unlisted h, hv]
    · simp [hb]
  · simp [memRead_cons]

/-- One byte inserted is read back, and every other address reads as before. -/
theorem memRead_memInsert {m : Memory} (hm : m.Pairwise (fun p q => p.1 < q.1)) (a : Nat) (v : Byte) (b : Nat) :
    memRead (memInsert m a v) b = if b = a then v else memRead m b := by
  induction m with
  | nil =>
    have := memRead_memCell_append a v [] b (by simp)
    simpa [memInsert] using this
  | cons p m ih =>
    obtain ⟨c, w⟩ := p
    rw [List.pairwise_cons] at hm
    unfold memInsert
    split
    · next hlt =>
      apply memRead_memCell_append
      intro q hq
      rcases List.mem_cons.1 hq with rfl | hq
      · exact Nat.ne_of_gt hlt
      · have := hm.1 q hq
        simp only at this
        omega
    · split
      · next heq =>
        subst heq
        rw [memRead_memCell_append _ _ _ _ fun q hq => Nat.ne_of_gt (hm.1 q hq), memRead_cons]
        split <;> rfl
      · next hlt hne =>
        rw [memRead_cons, memRead_cons, ih hm.2]
        by_cases hb : b = a
        · subst hb; simp [hne]
        · simp [hb]

/-- Reading after writing one byte (R100, R118). -/
theorem memRead_memWrite {m : Memory} (hm : memWf m) {a : Nat} (ha : a < memSize) (v : Byte) (b : Nat) :
    memRead (memWrite m a v) b = if b = a then v else memRead m b := by
  rw [memWrite, if_pos ha]
  exact memRead_memInsert hm.1 a v b

/-! ### The canonical form -/

theorem memWf_nil : memWf [] := ⟨List.Pairwise.nil, by simp⟩

theorem mem_memInsert {m : Memory} {a : Nat} {v : Byte} {p : Host.Cell} (h : p ∈ memInsert m a v) :
    p ∈ m ∨ (p = (a, v) ∧ v ≠ unlistedByte) := by
  have cell : p ∈ memCell a v → p = (a, v) ∧ v ≠ unlistedByte := by
    unfold memCell
    split <;> simp_all
  induction m with
  | nil => exact .inr (cell h)
  | cons q m ih =>
    obtain ⟨c, w⟩ := q
    unfold memInsert at h
    split at h
    · rcases List.mem_append.1 h with h | h
      · exact .inr (cell h)
      · exact .inl h
    · split at h
      · rcases List.mem_append.1 h with h | h
        · exact .inr (cell h)
        · exact .inl (List.mem_cons_of_mem _ h)
      · rcases List.mem_cons.1 h with rfl | h
        · exact .inl (by simp)
        · exact (ih h).imp_left (List.mem_cons_of_mem _)

theorem pairwise_memInsert {m : Memory} (hm : m.Pairwise (fun p q => p.1 < q.1)) (a : Nat) (v : Byte) :
    (memInsert m a v).Pairwise (fun p q => p.1 < q.1) := by
  have cell : ∀ r : Memory, r.Pairwise (fun p q => p.1 < q.1) → (∀ q ∈ r, a < q.1) →
      (memCell a v ++ r).Pairwise (fun p q => p.1 < q.1) := by
    intro r hr hlt
    unfold memCell
    split
    · simpa using hr
    · simpa using ⟨fun x y hxy => hlt (x, y) hxy, hr⟩
  induction m with
  | nil => simpa [memInsert] using cell [] (by simp) (by simp)
  | cons q m ih =>
    obtain ⟨c, w⟩ := q
    have hm' := List.pairwise_cons.1 hm
    unfold memInsert
    split
    · next hlt =>
      refine cell _ hm fun r hr => ?_
      rcases List.mem_cons.1 hr with rfl | hr
      · exact hlt
      · exact Nat.lt_trans hlt (hm'.1 r hr)
    · split
      · next heq => exact cell _ hm'.2 fun r hr => heq ▸ hm'.1 r hr
      · next hlt hne =>
        refine List.pairwise_cons.2 ⟨fun r hr => ?_, ih hm'.2⟩
        rcases mem_memInsert hr with hr | ⟨rfl, _⟩
        · exact hm'.1 r hr
        · show c < a
          omega

/-- Writing a byte keeps the canonical form. -/
theorem memWf_memWrite {m : Memory} (hm : memWf m) (a : Nat) (v : Byte) : memWf (memWrite m a v) := by
  unfold memWrite
  split
  · next ha =>
    refine ⟨pairwise_memInsert hm.1 a v, fun p hp => ?_⟩
    rcases mem_memInsert hp with hp | ⟨rfl, hv⟩
    · exact hm.2 p hp
    · exact ⟨ha, hv⟩
  · exact hm

/-- Writing bytes keeps the canonical form. -/
theorem memWf_memWriteBytes {m : Memory} (hm : memWf m) (a : Nat) (vs : List Byte) : memWf (memWriteBytes m a vs) := by
  induction vs generalizing m a with
  | nil => exact hm
  | cons v vs ih => exact ih (memWf_memWrite hm a v) (a + 1)

/-- The canonical memory of a function has the canonical form. -/
theorem memWf_memOfBytes (f : Nat → Byte) : memWf (memOfBytes f) := by
  constructor
  · rw [memOfBytes, List.pairwise_filterMap]
    refine List.pairwise_lt_range.imp ?_
    intro a b hab p hp q hq
    split at hp
    · cases hp
    · split at hq
      · cases hq
      · cases hp; cases hq; exact hab
  · intro p hp
    obtain ⟨a, ha, hpa⟩ := List.mem_filterMap.1 hp
    split at hpa
    · cases hpa
    · next hne =>
      cases hpa
      exact ⟨List.mem_range.1 ha, hne⟩

/-! ### Writing bytes -/

/-- Bytes written in range are read back, and every other address reads as before (R108, R111). -/
theorem memRead_memWriteBytes {m : Memory} (hm : memWf m) {a : Nat} {vs : List Byte} (h : a + vs.length ≤ memSize) (b : Nat) :
    memRead (memWriteBytes m a vs) b = if a ≤ b then (vs[b - a]?).getD (memRead m b) else memRead m b := by
  induction vs generalizing m a with
  | nil => simp [memWriteBytes]
  | cons v vs ih =>
    simp only [List.length_cons] at h
    have ha : a < memSize := by omega
    have := ih (memWf_memWrite hm a v) (a := a + 1) (by omega)
    rw [memWriteBytes, this, memRead_memWrite hm ha]
    rcases Nat.lt_trichotomy a b with hab | hab | hab
    · obtain ⟨k, rfl⟩ := Nat.exists_eq_add_of_lt hab
      have h1 : a + k + 1 - (a + 1) = k := by omega
      have h2 : a + k + 1 - a = k + 1 := by omega
      simp [h1, h2, show a + 1 ≤ a + k + 1 by omega, show a ≤ a + k + 1 by omega, show a + k + 1 ≠ a by omega]
    · subst hab
      simp
    · simp [show ¬ a + 1 ≤ b by omega, show ¬ a ≤ b by omega, show b ≠ a by omega]

/-- Address outside the bytes written: reads as before, whatever the memory. -/
theorem memRead_memWriteBytes_outside {m : Memory} (hm : memWf m) {a : Nat} {vs : List Byte}
    (h : a + vs.length ≤ memSize) {b : Nat} (hb : b < a ∨ a + vs.length ≤ b) :
    memRead (memWriteBytes m a vs) b = memRead m b := by
  rw [memRead_memWriteBytes hm h]
  split
  · rw [List.getElem?_eq_none (by omega)]
    rfl
  · rfl

end Sys2Proof.Machine
end

