-- ==== Sys2Proof/Laws/State.lean ====
section
/-! SUPPORT. One lemma per field for each named update of the state, true by rfl, and the lemmas of the register accessor,
so that no proof unfolds a record update. -/

namespace Sys2Proof.Machine

/-! ### `State.setReg` -/

@[simp] theorem State.setReg_regs (s : State) (r : Reg) (v : Word) : (s.setReg r v).regs = s.regs.set r v := rfl
@[simp] theorem State.setReg_pc (s : State) (r : Reg) (v : Word) : (s.setReg r v).pc = s.pc := rfl
@[simp] theorem State.setReg_sp (s : State) (r : Reg) (v : Word) : (s.setReg r v).sp = s.sp := rfl
@[simp] theorem State.setReg_fp (s : State) (r : Reg) (v : Word) : (s.setReg r v).fp = s.fp := rfl
@[simp] theorem State.setReg_flags (s : State) (r : Reg) (v : Word) : (s.setReg r v).flags = s.flags := rfl
@[simp] theorem State.setReg_halted (s : State) (r : Reg) (v : Word) : (s.setReg r v).halted = s.halted := rfl
@[simp] theorem State.setReg_exitCode (s : State) (r : Reg) (v : Word) : (s.setReg r v).exitCode = s.exitCode := rfl
@[simp] theorem State.setReg_faulted (s : State) (r : Reg) (v : Word) : (s.setReg r v).faulted = s.faulted := rfl
@[simp] theorem State.setReg_faultCause (s : State) (r : Reg) (v : Word) : (s.setReg r v).faultCause = s.faultCause := rfl
@[simp] theorem State.setReg_faultInfo (s : State) (r : Reg) (v : Word) : (s.setReg r v).faultInfo = s.faultInfo := rfl
@[simp] theorem State.setReg_mem (s : State) (r : Reg) (v : Word) : (s.setReg r v).mem = s.mem := rfl
@[simp] theorem State.setReg_pages (s : State) (r : Reg) (v : Word) : (s.setReg r v).pages = s.pages := rfl
@[simp] theorem State.setReg_irqGlobalEnable (s : State) (r : Reg) (v : Word) : (s.setReg r v).irqGlobalEnable = s.irqGlobalEnable := rfl
@[simp] theorem State.setReg_vec (s : State) (r : Reg) (v : Word) : (s.setReg r v).vec = s.vec := rfl
@[simp] theorem State.setReg_dbgEnabled (s : State) (r : Reg) (v : Word) : (s.setReg r v).dbgEnabled = s.dbgEnabled := rfl
@[simp] theorem State.setReg_singleStep (s : State) (r : Reg) (v : Word) : (s.setReg r v).singleStep = s.singleStep := rfl
@[simp] theorem State.setReg_breakpoints (s : State) (r : Reg) (v : Word) : (s.setReg r v).breakpoints = s.breakpoints := rfl
@[simp] theorem State.setReg_breakRequest (s : State) (r : Reg) (v : Word) : (s.setReg r v).breakRequest = s.breakRequest := rfl
@[simp] theorem State.setReg_instructionCount (s : State) (r : Reg) (v : Word) : (s.setReg r v).instructionCount = s.instructionCount := rfl
@[simp] theorem State.setReg_cycleCount (s : State) (r : Reg) (v : Word) : (s.setReg r v).cycleCount = s.cycleCount := rfl
@[simp] theorem State.setReg_ticks (s : State) (r : Reg) (v : Word) : (s.setReg r v).ticks = s.ticks := rfl
@[simp] theorem State.setReg_heapBase (s : State) (r : Reg) (v : Word) : (s.setReg r v).heapBase = s.heapBase := rfl
@[simp] theorem State.setReg_heapSize (s : State) (r : Reg) (v : Word) : (s.setReg r v).heapSize = s.heapSize := rfl
@[simp] theorem State.setReg_heapUsed (s : State) (r : Reg) (v : Word) : (s.setReg r v).heapUsed = s.heapUsed := rfl
@[simp] theorem State.setReg_pcWritten (s : State) (r : Reg) (v : Word) : (s.setReg r v).pcWritten = s.pcWritten := rfl
@[simp] theorem State.setReg_ir (s : State) (r : Reg) (v : Word) : (s.setReg r v).ir = s.ir := rfl
@[simp] theorem State.setReg_result (s : State) (r : Reg) (v : Word) : (s.setReg r v).result = s.result := rfl
@[simp] theorem State.setReg_handedContext (s : State) (r : Reg) (v : Word) : (s.setReg r v).handedContext = s.handedContext := rfl
@[simp] theorem State.setReg_params (s : State) (r : Reg) (v : Word) : (s.setReg r v).params = s.params := rfl
@[simp] theorem State.setReg_draws (s : State) (r : Reg) (v : Word) : (s.setReg r v).draws = s.draws := rfl

/-! ### `State.jump` -/

@[simp] theorem State.jump_regs (s : State) (t : Word) : (s.jump t).regs = s.regs := rfl
@[simp] theorem State.jump_pc (s : State) (t : Word) : (s.jump t).pc = t := rfl
@[simp] theorem State.jump_sp (s : State) (t : Word) : (s.jump t).sp = s.sp := rfl
@[simp] theorem State.jump_fp (s : State) (t : Word) : (s.jump t).fp = s.fp := rfl
@[simp] theorem State.jump_flags (s : State) (t : Word) : (s.jump t).flags = s.flags := rfl
@[simp] theorem State.jump_halted (s : State) (t : Word) : (s.jump t).halted = s.halted := rfl
@[simp] theorem State.jump_exitCode (s : State) (t : Word) : (s.jump t).exitCode = s.exitCode := rfl
@[simp] theorem State.jump_faulted (s : State) (t : Word) : (s.jump t).faulted = s.faulted := rfl
@[simp] theorem State.jump_faultCause (s : State) (t : Word) : (s.jump t).faultCause = s.faultCause := rfl
@[simp] theorem State.jump_faultInfo (s : State) (t : Word) : (s.jump t).faultInfo = s.faultInfo := rfl
@[simp] theorem State.jump_mem (s : State) (t : Word) : (s.jump t).mem = s.mem := rfl
@[simp] theorem State.jump_pages (s : State) (t : Word) : (s.jump t).pages = s.pages := rfl
@[simp] theorem State.jump_irqGlobalEnable (s : State) (t : Word) : (s.jump t).irqGlobalEnable = s.irqGlobalEnable := rfl
@[simp] theorem State.jump_vec (s : State) (t : Word) : (s.jump t).vec = s.vec := rfl
@[simp] theorem State.jump_dbgEnabled (s : State) (t : Word) : (s.jump t).dbgEnabled = s.dbgEnabled := rfl
@[simp] theorem State.jump_singleStep (s : State) (t : Word) : (s.jump t).singleStep = s.singleStep := rfl
@[simp] theorem State.jump_breakpoints (s : State) (t : Word) : (s.jump t).breakpoints = s.breakpoints := rfl
@[simp] theorem State.jump_breakRequest (s : State) (t : Word) : (s.jump t).breakRequest = s.breakRequest := rfl
@[simp] theorem State.jump_instructionCount (s : State) (t : Word) : (s.jump t).instructionCount = s.instructionCount := rfl
@[simp] theorem State.jump_cycleCount (s : State) (t : Word) : (s.jump t).cycleCount = s.cycleCount := rfl
@[simp] theorem State.jump_ticks (s : State) (t : Word) : (s.jump t).ticks = s.ticks := rfl
@[simp] theorem State.jump_heapBase (s : State) (t : Word) : (s.jump t).heapBase = s.heapBase := rfl
@[simp] theorem State.jump_heapSize (s : State) (t : Word) : (s.jump t).heapSize = s.heapSize := rfl
@[simp] theorem State.jump_heapUsed (s : State) (t : Word) : (s.jump t).heapUsed = s.heapUsed := rfl
@[simp] theorem State.jump_pcWritten (s : State) (t : Word) : (s.jump t).pcWritten = true := rfl
@[simp] theorem State.jump_ir (s : State) (t : Word) : (s.jump t).ir = s.ir := rfl
@[simp] theorem State.jump_result (s : State) (t : Word) : (s.jump t).result = s.result := rfl
@[simp] theorem State.jump_handedContext (s : State) (t : Word) : (s.jump t).handedContext = s.handedContext := rfl
@[simp] theorem State.jump_params (s : State) (t : Word) : (s.jump t).params = s.params := rfl
@[simp] theorem State.jump_draws (s : State) (t : Word) : (s.jump t).draws = s.draws := rfl

/-! ### `State.setSp` -/

@[simp] theorem State.setSp_regs (s : State) (v : Word) : (s.setSp v).regs = s.regs := rfl
@[simp] theorem State.setSp_pc (s : State) (v : Word) : (s.setSp v).pc = s.pc := rfl
@[simp] theorem State.setSp_sp (s : State) (v : Word) : (s.setSp v).sp = v := rfl
@[simp] theorem State.setSp_fp (s : State) (v : Word) : (s.setSp v).fp = s.fp := rfl
@[simp] theorem State.setSp_flags (s : State) (v : Word) : (s.setSp v).flags = s.flags := rfl
@[simp] theorem State.setSp_halted (s : State) (v : Word) : (s.setSp v).halted = s.halted := rfl
@[simp] theorem State.setSp_exitCode (s : State) (v : Word) : (s.setSp v).exitCode = s.exitCode := rfl
@[simp] theorem State.setSp_faulted (s : State) (v : Word) : (s.setSp v).faulted = s.faulted := rfl
@[simp] theorem State.setSp_faultCause (s : State) (v : Word) : (s.setSp v).faultCause = s.faultCause := rfl
@[simp] theorem State.setSp_faultInfo (s : State) (v : Word) : (s.setSp v).faultInfo = s.faultInfo := rfl
@[simp] theorem State.setSp_mem (s : State) (v : Word) : (s.setSp v).mem = s.mem := rfl
@[simp] theorem State.setSp_pages (s : State) (v : Word) : (s.setSp v).pages = s.pages := rfl
@[simp] theorem State.setSp_irqGlobalEnable (s : State) (v : Word) : (s.setSp v).irqGlobalEnable = s.irqGlobalEnable := rfl
@[simp] theorem State.setSp_vec (s : State) (v : Word) : (s.setSp v).vec = s.vec := rfl
@[simp] theorem State.setSp_dbgEnabled (s : State) (v : Word) : (s.setSp v).dbgEnabled = s.dbgEnabled := rfl
@[simp] theorem State.setSp_singleStep (s : State) (v : Word) : (s.setSp v).singleStep = s.singleStep := rfl
@[simp] theorem State.setSp_breakpoints (s : State) (v : Word) : (s.setSp v).breakpoints = s.breakpoints := rfl
@[simp] theorem State.setSp_breakRequest (s : State) (v : Word) : (s.setSp v).breakRequest = s.breakRequest := rfl
@[simp] theorem State.setSp_instructionCount (s : State) (v : Word) : (s.setSp v).instructionCount = s.instructionCount := rfl
@[simp] theorem State.setSp_cycleCount (s : State) (v : Word) : (s.setSp v).cycleCount = s.cycleCount := rfl
@[simp] theorem State.setSp_ticks (s : State) (v : Word) : (s.setSp v).ticks = s.ticks := rfl
@[simp] theorem State.setSp_heapBase (s : State) (v : Word) : (s.setSp v).heapBase = s.heapBase := rfl
@[simp] theorem State.setSp_heapSize (s : State) (v : Word) : (s.setSp v).heapSize = s.heapSize := rfl
@[simp] theorem State.setSp_heapUsed (s : State) (v : Word) : (s.setSp v).heapUsed = s.heapUsed := rfl
@[simp] theorem State.setSp_pcWritten (s : State) (v : Word) : (s.setSp v).pcWritten = s.pcWritten := rfl
@[simp] theorem State.setSp_ir (s : State) (v : Word) : (s.setSp v).ir = s.ir := rfl
@[simp] theorem State.setSp_result (s : State) (v : Word) : (s.setSp v).result = s.result := rfl
@[simp] theorem State.setSp_handedContext (s : State) (v : Word) : (s.setSp v).handedContext = s.handedContext := rfl
@[simp] theorem State.setSp_params (s : State) (v : Word) : (s.setSp v).params = s.params := rfl
@[simp] theorem State.setSp_draws (s : State) (v : Word) : (s.setSp v).draws = s.draws := rfl

/-! ### `State.setFlags` -/

@[simp] theorem State.setFlags_regs (s : State) (f : Flags) : (s.setFlags f).regs = s.regs := rfl
@[simp] theorem State.setFlags_pc (s : State) (f : Flags) : (s.setFlags f).pc = s.pc := rfl
@[simp] theorem State.setFlags_sp (s : State) (f : Flags) : (s.setFlags f).sp = s.sp := rfl
@[simp] theorem State.setFlags_fp (s : State) (f : Flags) : (s.setFlags f).fp = s.fp := rfl
@[simp] theorem State.setFlags_flags (s : State) (f : Flags) : (s.setFlags f).flags = f := rfl
@[simp] theorem State.setFlags_halted (s : State) (f : Flags) : (s.setFlags f).halted = s.halted := rfl
@[simp] theorem State.setFlags_exitCode (s : State) (f : Flags) : (s.setFlags f).exitCode = s.exitCode := rfl
@[simp] theorem State.setFlags_faulted (s : State) (f : Flags) : (s.setFlags f).faulted = s.faulted := rfl
@[simp] theorem State.setFlags_faultCause (s : State) (f : Flags) : (s.setFlags f).faultCause = s.faultCause := rfl
@[simp] theorem State.setFlags_faultInfo (s : State) (f : Flags) : (s.setFlags f).faultInfo = s.faultInfo := rfl
@[simp] theorem State.setFlags_mem (s : State) (f : Flags) : (s.setFlags f).mem = s.mem := rfl
@[simp] theorem State.setFlags_pages (s : State) (f : Flags) : (s.setFlags f).pages = s.pages := rfl
@[simp] theorem State.setFlags_irqGlobalEnable (s : State) (f : Flags) : (s.setFlags f).irqGlobalEnable = s.irqGlobalEnable := rfl
@[simp] theorem State.setFlags_vec (s : State) (f : Flags) : (s.setFlags f).vec = s.vec := rfl
@[simp] theorem State.setFlags_dbgEnabled (s : State) (f : Flags) : (s.setFlags f).dbgEnabled = s.dbgEnabled := rfl
@[simp] theorem State.setFlags_singleStep (s : State) (f : Flags) : (s.setFlags f).singleStep = s.singleStep := rfl
@[simp] theorem State.setFlags_breakpoints (s : State) (f : Flags) : (s.setFlags f).breakpoints = s.breakpoints := rfl
@[simp] theorem State.setFlags_breakRequest (s : State) (f : Flags) : (s.setFlags f).breakRequest = s.breakRequest := rfl
@[simp] theorem State.setFlags_instructionCount (s : State) (f : Flags) : (s.setFlags f).instructionCount = s.instructionCount := rfl
@[simp] theorem State.setFlags_cycleCount (s : State) (f : Flags) : (s.setFlags f).cycleCount = s.cycleCount := rfl
@[simp] theorem State.setFlags_ticks (s : State) (f : Flags) : (s.setFlags f).ticks = s.ticks := rfl
@[simp] theorem State.setFlags_heapBase (s : State) (f : Flags) : (s.setFlags f).heapBase = s.heapBase := rfl
@[simp] theorem State.setFlags_heapSize (s : State) (f : Flags) : (s.setFlags f).heapSize = s.heapSize := rfl
@[simp] theorem State.setFlags_heapUsed (s : State) (f : Flags) : (s.setFlags f).heapUsed = s.heapUsed := rfl
@[simp] theorem State.setFlags_pcWritten (s : State) (f : Flags) : (s.setFlags f).pcWritten = s.pcWritten := rfl
@[simp] theorem State.setFlags_ir (s : State) (f : Flags) : (s.setFlags f).ir = s.ir := rfl
@[simp] theorem State.setFlags_result (s : State) (f : Flags) : (s.setFlags f).result = s.result := rfl
@[simp] theorem State.setFlags_handedContext (s : State) (f : Flags) : (s.setFlags f).handedContext = s.handedContext := rfl
@[simp] theorem State.setFlags_params (s : State) (f : Flags) : (s.setFlags f).params = s.params := rfl
@[simp] theorem State.setFlags_draws (s : State) (f : Flags) : (s.setFlags f).draws = s.draws := rfl

/-! ### `State.setMem` -/

@[simp] theorem State.setMem_regs (s : State) (m : Memory) : (s.setMem m).regs = s.regs := rfl
@[simp] theorem State.setMem_pc (s : State) (m : Memory) : (s.setMem m).pc = s.pc := rfl
@[simp] theorem State.setMem_sp (s : State) (m : Memory) : (s.setMem m).sp = s.sp := rfl
@[simp] theorem State.setMem_fp (s : State) (m : Memory) : (s.setMem m).fp = s.fp := rfl
@[simp] theorem State.setMem_flags (s : State) (m : Memory) : (s.setMem m).flags = s.flags := rfl
@[simp] theorem State.setMem_halted (s : State) (m : Memory) : (s.setMem m).halted = s.halted := rfl
@[simp] theorem State.setMem_exitCode (s : State) (m : Memory) : (s.setMem m).exitCode = s.exitCode := rfl
@[simp] theorem State.setMem_faulted (s : State) (m : Memory) : (s.setMem m).faulted = s.faulted := rfl
@[simp] theorem State.setMem_faultCause (s : State) (m : Memory) : (s.setMem m).faultCause = s.faultCause := rfl
@[simp] theorem State.setMem_faultInfo (s : State) (m : Memory) : (s.setMem m).faultInfo = s.faultInfo := rfl
@[simp] theorem State.setMem_mem (s : State) (m : Memory) : (s.setMem m).mem = m := rfl
@[simp] theorem State.setMem_pages (s : State) (m : Memory) : (s.setMem m).pages = s.pages := rfl
@[simp] theorem State.setMem_irqGlobalEnable (s : State) (m : Memory) : (s.setMem m).irqGlobalEnable = s.irqGlobalEnable := rfl
@[simp] theorem State.setMem_vec (s : State) (m : Memory) : (s.setMem m).vec = s.vec := rfl
@[simp] theorem State.setMem_dbgEnabled (s : State) (m : Memory) : (s.setMem m).dbgEnabled = s.dbgEnabled := rfl
@[simp] theorem State.setMem_singleStep (s : State) (m : Memory) : (s.setMem m).singleStep = s.singleStep := rfl
@[simp] theorem State.setMem_breakpoints (s : State) (m : Memory) : (s.setMem m).breakpoints = s.breakpoints := rfl
@[simp] theorem State.setMem_breakRequest (s : State) (m : Memory) : (s.setMem m).breakRequest = s.breakRequest := rfl
@[simp] theorem State.setMem_instructionCount (s : State) (m : Memory) : (s.setMem m).instructionCount = s.instructionCount := rfl
@[simp] theorem State.setMem_cycleCount (s : State) (m : Memory) : (s.setMem m).cycleCount = s.cycleCount := rfl
@[simp] theorem State.setMem_ticks (s : State) (m : Memory) : (s.setMem m).ticks = s.ticks := rfl
@[simp] theorem State.setMem_heapBase (s : State) (m : Memory) : (s.setMem m).heapBase = s.heapBase := rfl
@[simp] theorem State.setMem_heapSize (s : State) (m : Memory) : (s.setMem m).heapSize = s.heapSize := rfl
@[simp] theorem State.setMem_heapUsed (s : State) (m : Memory) : (s.setMem m).heapUsed = s.heapUsed := rfl
@[simp] theorem State.setMem_pcWritten (s : State) (m : Memory) : (s.setMem m).pcWritten = s.pcWritten := rfl
@[simp] theorem State.setMem_ir (s : State) (m : Memory) : (s.setMem m).ir = s.ir := rfl
@[simp] theorem State.setMem_result (s : State) (m : Memory) : (s.setMem m).result = s.result := rfl
@[simp] theorem State.setMem_handedContext (s : State) (m : Memory) : (s.setMem m).handedContext = s.handedContext := rfl
@[simp] theorem State.setMem_params (s : State) (m : Memory) : (s.setMem m).params = s.params := rfl
@[simp] theorem State.setMem_draws (s : State) (m : Memory) : (s.setMem m).draws = s.draws := rfl

/-! ### `State.drawn` -/

@[simp] theorem State.drawn_regs (s : State) : s.drawn.regs = s.regs := rfl
@[simp] theorem State.drawn_pc (s : State) : s.drawn.pc = s.pc := rfl
@[simp] theorem State.drawn_sp (s : State) : s.drawn.sp = s.sp := rfl
@[simp] theorem State.drawn_fp (s : State) : s.drawn.fp = s.fp := rfl
@[simp] theorem State.drawn_flags (s : State) : s.drawn.flags = s.flags := rfl
@[simp] theorem State.drawn_halted (s : State) : s.drawn.halted = s.halted := rfl
@[simp] theorem State.drawn_exitCode (s : State) : s.drawn.exitCode = s.exitCode := rfl
@[simp] theorem State.drawn_faulted (s : State) : s.drawn.faulted = s.faulted := rfl
@[simp] theorem State.drawn_faultCause (s : State) : s.drawn.faultCause = s.faultCause := rfl
@[simp] theorem State.drawn_faultInfo (s : State) : s.drawn.faultInfo = s.faultInfo := rfl
@[simp] theorem State.drawn_mem (s : State) : s.drawn.mem = s.mem := rfl
@[simp] theorem State.drawn_pages (s : State) : s.drawn.pages = s.pages := rfl
@[simp] theorem State.drawn_irqGlobalEnable (s : State) : s.drawn.irqGlobalEnable = s.irqGlobalEnable := rfl
@[simp] theorem State.drawn_vec (s : State) : s.drawn.vec = s.vec := rfl
@[simp] theorem State.drawn_dbgEnabled (s : State) : s.drawn.dbgEnabled = s.dbgEnabled := rfl
@[simp] theorem State.drawn_singleStep (s : State) : s.drawn.singleStep = s.singleStep := rfl
@[simp] theorem State.drawn_breakpoints (s : State) : s.drawn.breakpoints = s.breakpoints := rfl
@[simp] theorem State.drawn_breakRequest (s : State) : s.drawn.breakRequest = s.breakRequest := rfl
@[simp] theorem State.drawn_instructionCount (s : State) : s.drawn.instructionCount = s.instructionCount := rfl
@[simp] theorem State.drawn_cycleCount (s : State) : s.drawn.cycleCount = s.cycleCount := rfl
@[simp] theorem State.drawn_ticks (s : State) : s.drawn.ticks = s.ticks := rfl
@[simp] theorem State.drawn_heapBase (s : State) : s.drawn.heapBase = s.heapBase := rfl
@[simp] theorem State.drawn_heapSize (s : State) : s.drawn.heapSize = s.heapSize := rfl
@[simp] theorem State.drawn_heapUsed (s : State) : s.drawn.heapUsed = s.heapUsed := rfl
@[simp] theorem State.drawn_pcWritten (s : State) : s.drawn.pcWritten = s.pcWritten := rfl
@[simp] theorem State.drawn_ir (s : State) : s.drawn.ir = s.ir := rfl
@[simp] theorem State.drawn_result (s : State) : s.drawn.result = s.result := rfl
@[simp] theorem State.drawn_handedContext (s : State) : s.drawn.handedContext = s.handedContext := rfl
@[simp] theorem State.drawn_params (s : State) : s.drawn.params = s.params := rfl
@[simp] theorem State.drawn_draws (s : State) : s.drawn.draws = s.draws + 1 := rfl

/-! ### `State.raise` -/

@[simp] theorem State.raise_regs (s : State) (e : Exc) : (s.raise e).regs = s.regs := rfl
@[simp] theorem State.raise_pc (s : State) (e : Exc) : (s.raise e).pc = s.pc := rfl
@[simp] theorem State.raise_sp (s : State) (e : Exc) : (s.raise e).sp = s.sp := rfl
@[simp] theorem State.raise_fp (s : State) (e : Exc) : (s.raise e).fp = s.fp := rfl
@[simp] theorem State.raise_flags (s : State) (e : Exc) : (s.raise e).flags = s.flags := rfl
@[simp] theorem State.raise_halted (s : State) (e : Exc) : (s.raise e).halted = s.halted := rfl
@[simp] theorem State.raise_exitCode (s : State) (e : Exc) : (s.raise e).exitCode = s.exitCode := rfl
@[simp] theorem State.raise_faulted (s : State) (e : Exc) : (s.raise e).faulted = true := rfl
@[simp] theorem State.raise_faultCause (s : State) (e : Exc) : (s.raise e).faultCause = e.cause := rfl
@[simp] theorem State.raise_faultInfo (s : State) (e : Exc) : (s.raise e).faultInfo = e.info s.pc s.ir := rfl
@[simp] theorem State.raise_mem (s : State) (e : Exc) : (s.raise e).mem = s.mem := rfl
@[simp] theorem State.raise_pages (s : State) (e : Exc) : (s.raise e).pages = s.pages := rfl
@[simp] theorem State.raise_irqGlobalEnable (s : State) (e : Exc) : (s.raise e).irqGlobalEnable = s.irqGlobalEnable := rfl
@[simp] theorem State.raise_vec (s : State) (e : Exc) : (s.raise e).vec = s.vec := rfl
@[simp] theorem State.raise_dbgEnabled (s : State) (e : Exc) : (s.raise e).dbgEnabled = s.dbgEnabled := rfl
@[simp] theorem State.raise_singleStep (s : State) (e : Exc) : (s.raise e).singleStep = s.singleStep := rfl
@[simp] theorem State.raise_breakpoints (s : State) (e : Exc) : (s.raise e).breakpoints = s.breakpoints := rfl
@[simp] theorem State.raise_breakRequest (s : State) (e : Exc) : (s.raise e).breakRequest = s.breakRequest := rfl
@[simp] theorem State.raise_instructionCount (s : State) (e : Exc) : (s.raise e).instructionCount = s.instructionCount := rfl
@[simp] theorem State.raise_cycleCount (s : State) (e : Exc) : (s.raise e).cycleCount = s.cycleCount := rfl
@[simp] theorem State.raise_ticks (s : State) (e : Exc) : (s.raise e).ticks = s.ticks := rfl
@[simp] theorem State.raise_heapBase (s : State) (e : Exc) : (s.raise e).heapBase = s.heapBase := rfl
@[simp] theorem State.raise_heapSize (s : State) (e : Exc) : (s.raise e).heapSize = s.heapSize := rfl
@[simp] theorem State.raise_heapUsed (s : State) (e : Exc) : (s.raise e).heapUsed = s.heapUsed := rfl
@[simp] theorem State.raise_pcWritten (s : State) (e : Exc) : (s.raise e).pcWritten = s.pcWritten := rfl
@[simp] theorem State.raise_ir (s : State) (e : Exc) : (s.raise e).ir = s.ir := rfl
@[simp] theorem State.raise_result (s : State) (e : Exc) : (s.raise e).result = some .fault := rfl
@[simp] theorem State.raise_handedContext (s : State) (e : Exc) : (s.raise e).handedContext = s.handedContext := rfl
@[simp] theorem State.raise_params (s : State) (e : Exc) : (s.raise e).params = s.params := rfl
@[simp] theorem State.raise_draws (s : State) (e : Exc) : (s.raise e).draws = s.draws := rfl

/-! ### `State.enterHandler` -/

@[simp] theorem State.enterHandler_regs (s : State) (i : Irq) : (s.enterHandler i).regs = s.regs := rfl
@[simp] theorem State.enterHandler_pc (s : State) (i : Irq) : (s.enterHandler i).pc = s.vec[i].handlerAddr := rfl
@[simp] theorem State.enterHandler_sp (s : State) (i : Irq) : (s.enterHandler i).sp = s.sp := rfl
@[simp] theorem State.enterHandler_fp (s : State) (i : Irq) : (s.enterHandler i).fp = s.fp := rfl
@[simp] theorem State.enterHandler_flags (s : State) (i : Irq) : (s.enterHandler i).flags = s.flags := rfl
@[simp] theorem State.enterHandler_halted (s : State) (i : Irq) : (s.enterHandler i).halted = s.halted := rfl
@[simp] theorem State.enterHandler_exitCode (s : State) (i : Irq) : (s.enterHandler i).exitCode = s.exitCode := rfl
@[simp] theorem State.enterHandler_faulted (s : State) (i : Irq) : (s.enterHandler i).faulted = s.faulted := rfl
@[simp] theorem State.enterHandler_faultCause (s : State) (i : Irq) : (s.enterHandler i).faultCause = s.faultCause := rfl
@[simp] theorem State.enterHandler_faultInfo (s : State) (i : Irq) : (s.enterHandler i).faultInfo = s.faultInfo := rfl
@[simp] theorem State.enterHandler_mem (s : State) (i : Irq) : (s.enterHandler i).mem = s.mem := rfl
@[simp] theorem State.enterHandler_pages (s : State) (i : Irq) : (s.enterHandler i).pages = s.pages := rfl
@[simp] theorem State.enterHandler_irqGlobalEnable (s : State) (i : Irq) : (s.enterHandler i).irqGlobalEnable = s.irqGlobalEnable := rfl
@[simp] theorem State.enterHandler_vec (s : State) (i : Irq) : (s.enterHandler i).vec = s.vec.set i { s.vec[i] with pending := false } := rfl
@[simp] theorem State.enterHandler_dbgEnabled (s : State) (i : Irq) : (s.enterHandler i).dbgEnabled = s.dbgEnabled := rfl
@[simp] theorem State.enterHandler_singleStep (s : State) (i : Irq) : (s.enterHandler i).singleStep = s.singleStep := rfl
@[simp] theorem State.enterHandler_breakpoints (s : State) (i : Irq) : (s.enterHandler i).breakpoints = s.breakpoints := rfl
@[simp] theorem State.enterHandler_breakRequest (s : State) (i : Irq) : (s.enterHandler i).breakRequest = s.breakRequest := rfl
@[simp] theorem State.enterHandler_instructionCount (s : State) (i : Irq) : (s.enterHandler i).instructionCount = s.instructionCount := rfl
@[simp] theorem State.enterHandler_cycleCount (s : State) (i : Irq) : (s.enterHandler i).cycleCount = s.cycleCount := rfl
@[simp] theorem State.enterHandler_ticks (s : State) (i : Irq) : (s.enterHandler i).ticks = s.ticks := rfl
@[simp] theorem State.enterHandler_heapBase (s : State) (i : Irq) : (s.enterHandler i).heapBase = s.heapBase := rfl
@[simp] theorem State.enterHandler_heapSize (s : State) (i : Irq) : (s.enterHandler i).heapSize = s.heapSize := rfl
@[simp] theorem State.enterHandler_heapUsed (s : State) (i : Irq) : (s.enterHandler i).heapUsed = s.heapUsed := rfl
@[simp] theorem State.enterHandler_pcWritten (s : State) (i : Irq) : (s.enterHandler i).pcWritten = s.pcWritten := rfl
@[simp] theorem State.enterHandler_ir (s : State) (i : Irq) : (s.enterHandler i).ir = s.ir := rfl
@[simp] theorem State.enterHandler_result (s : State) (i : Irq) : (s.enterHandler i).result = s.result := rfl
@[simp] theorem State.enterHandler_handedContext (s : State) (i : Irq) : (s.enterHandler i).handedContext = s.handedContext := rfl
@[simp] theorem State.enterHandler_params (s : State) (i : Irq) : (s.enterHandler i).params = s.params := rfl
@[simp] theorem State.enterHandler_draws (s : State) (i : Irq) : (s.enterHandler i).draws = s.draws := rfl

/-! ### `State.advanceTime` -/

@[simp] theorem State.advanceTime_regs (s : State) (n : Word) : (s.advanceTime n).regs = s.regs := rfl
@[simp] theorem State.advanceTime_pc (s : State) (n : Word) : (s.advanceTime n).pc = s.pc := rfl
@[simp] theorem State.advanceTime_sp (s : State) (n : Word) : (s.advanceTime n).sp = s.sp := rfl
@[simp] theorem State.advanceTime_fp (s : State) (n : Word) : (s.advanceTime n).fp = s.fp := rfl
@[simp] theorem State.advanceTime_flags (s : State) (n : Word) : (s.advanceTime n).flags = s.flags := rfl
@[simp] theorem State.advanceTime_halted (s : State) (n : Word) : (s.advanceTime n).halted = s.halted := rfl
@[simp] theorem State.advanceTime_exitCode (s : State) (n : Word) : (s.advanceTime n).exitCode = s.exitCode := rfl
@[simp] theorem State.advanceTime_faulted (s : State) (n : Word) : (s.advanceTime n).faulted = s.faulted := rfl
@[simp] theorem State.advanceTime_faultCause (s : State) (n : Word) : (s.advanceTime n).faultCause = s.faultCause := rfl
@[simp] theorem State.advanceTime_faultInfo (s : State) (n : Word) : (s.advanceTime n).faultInfo = s.faultInfo := rfl
@[simp] theorem State.advanceTime_mem (s : State) (n : Word) : (s.advanceTime n).mem = s.mem := rfl
@[simp] theorem State.advanceTime_pages (s : State) (n : Word) : (s.advanceTime n).pages = s.pages := rfl
@[simp] theorem State.advanceTime_irqGlobalEnable (s : State) (n : Word) : (s.advanceTime n).irqGlobalEnable = s.irqGlobalEnable := rfl
@[simp] theorem State.advanceTime_vec (s : State) (n : Word) : (s.advanceTime n).vec = s.vec := rfl
@[simp] theorem State.advanceTime_dbgEnabled (s : State) (n : Word) : (s.advanceTime n).dbgEnabled = s.dbgEnabled := rfl
@[simp] theorem State.advanceTime_singleStep (s : State) (n : Word) : (s.advanceTime n).singleStep = s.singleStep := rfl
@[simp] theorem State.advanceTime_breakpoints (s : State) (n : Word) : (s.advanceTime n).breakpoints = s.breakpoints := rfl
@[simp] theorem State.advanceTime_breakRequest (s : State) (n : Word) : (s.advanceTime n).breakRequest = s.breakRequest := rfl
@[simp] theorem State.advanceTime_instructionCount (s : State) (n : Word) : (s.advanceTime n).instructionCount = s.instructionCount := rfl
@[simp] theorem State.advanceTime_cycleCount (s : State) (n : Word) : (s.advanceTime n).cycleCount = s.cycleCount + n.setWidth 64 := rfl
@[simp] theorem State.advanceTime_ticks (s : State) (n : Word) : (s.advanceTime n).ticks = s.ticks + n.setWidth 64 := rfl
@[simp] theorem State.advanceTime_heapBase (s : State) (n : Word) : (s.advanceTime n).heapBase = s.heapBase := rfl
@[simp] theorem State.advanceTime_heapSize (s : State) (n : Word) : (s.advanceTime n).heapSize = s.heapSize := rfl
@[simp] theorem State.advanceTime_heapUsed (s : State) (n : Word) : (s.advanceTime n).heapUsed = s.heapUsed := rfl
@[simp] theorem State.advanceTime_pcWritten (s : State) (n : Word) : (s.advanceTime n).pcWritten = s.pcWritten := rfl
@[simp] theorem State.advanceTime_ir (s : State) (n : Word) : (s.advanceTime n).ir = s.ir := rfl
@[simp] theorem State.advanceTime_result (s : State) (n : Word) : (s.advanceTime n).result = s.result := rfl
@[simp] theorem State.advanceTime_handedContext (s : State) (n : Word) : (s.advanceTime n).handedContext = s.handedContext := rfl
@[simp] theorem State.advanceTime_params (s : State) (n : Word) : (s.advanceTime n).params = s.params := rfl
@[simp] theorem State.advanceTime_draws (s : State) (n : Word) : (s.advanceTime n).draws = s.draws := rfl

/-! ### `State.ended` -/

@[simp] theorem State.ended_regs (s : State) (r : StepResult) : (s.ended r).regs = s.regs := rfl
@[simp] theorem State.ended_pc (s : State) (r : StepResult) : (s.ended r).pc = s.pc := rfl
@[simp] theorem State.ended_sp (s : State) (r : StepResult) : (s.ended r).sp = s.sp := rfl
@[simp] theorem State.ended_fp (s : State) (r : StepResult) : (s.ended r).fp = s.fp := rfl
@[simp] theorem State.ended_flags (s : State) (r : StepResult) : (s.ended r).flags = s.flags := rfl
@[simp] theorem State.ended_halted (s : State) (r : StepResult) : (s.ended r).halted = s.halted := rfl
@[simp] theorem State.ended_exitCode (s : State) (r : StepResult) : (s.ended r).exitCode = s.exitCode := rfl
@[simp] theorem State.ended_faulted (s : State) (r : StepResult) : (s.ended r).faulted = s.faulted := rfl
@[simp] theorem State.ended_faultCause (s : State) (r : StepResult) : (s.ended r).faultCause = s.faultCause := rfl
@[simp] theorem State.ended_faultInfo (s : State) (r : StepResult) : (s.ended r).faultInfo = s.faultInfo := rfl
@[simp] theorem State.ended_mem (s : State) (r : StepResult) : (s.ended r).mem = s.mem := rfl
@[simp] theorem State.ended_pages (s : State) (r : StepResult) : (s.ended r).pages = s.pages := rfl
@[simp] theorem State.ended_irqGlobalEnable (s : State) (r : StepResult) : (s.ended r).irqGlobalEnable = s.irqGlobalEnable := rfl
@[simp] theorem State.ended_vec (s : State) (r : StepResult) : (s.ended r).vec = s.vec := rfl
@[simp] theorem State.ended_dbgEnabled (s : State) (r : StepResult) : (s.ended r).dbgEnabled = s.dbgEnabled := rfl
@[simp] theorem State.ended_singleStep (s : State) (r : StepResult) : (s.ended r).singleStep = s.singleStep := rfl
@[simp] theorem State.ended_breakpoints (s : State) (r : StepResult) : (s.ended r).breakpoints = s.breakpoints := rfl
@[simp] theorem State.ended_breakRequest (s : State) (r : StepResult) : (s.ended r).breakRequest = s.breakRequest := rfl
@[simp] theorem State.ended_instructionCount (s : State) (r : StepResult) : (s.ended r).instructionCount = s.instructionCount := rfl
@[simp] theorem State.ended_cycleCount (s : State) (r : StepResult) : (s.ended r).cycleCount = s.cycleCount := rfl
@[simp] theorem State.ended_ticks (s : State) (r : StepResult) : (s.ended r).ticks = s.ticks := rfl
@[simp] theorem State.ended_heapBase (s : State) (r : StepResult) : (s.ended r).heapBase = s.heapBase := rfl
@[simp] theorem State.ended_heapSize (s : State) (r : StepResult) : (s.ended r).heapSize = s.heapSize := rfl
@[simp] theorem State.ended_heapUsed (s : State) (r : StepResult) : (s.ended r).heapUsed = s.heapUsed := rfl
@[simp] theorem State.ended_pcWritten (s : State) (r : StepResult) : (s.ended r).pcWritten = s.pcWritten := rfl
@[simp] theorem State.ended_ir (s : State) (r : StepResult) : (s.ended r).ir = s.ir := rfl
@[simp] theorem State.ended_result (s : State) (r : StepResult) : (s.ended r).result = some r := rfl
@[simp] theorem State.ended_handedContext (s : State) (r : StepResult) : (s.ended r).handedContext = s.handedContext := rfl
@[simp] theorem State.ended_params (s : State) (r : StepResult) : (s.ended r).params = s.params := rfl
@[simp] theorem State.ended_draws (s : State) (r : StepResult) : (s.ended r).draws = s.draws := rfl

/-! ### `State.takeBreak` -/

@[simp] theorem State.takeBreak_regs (s : State) : s.takeBreak.regs = s.regs := rfl
@[simp] theorem State.takeBreak_pc (s : State) : s.takeBreak.pc = s.pc := rfl
@[simp] theorem State.takeBreak_sp (s : State) : s.takeBreak.sp = s.sp := rfl
@[simp] theorem State.takeBreak_fp (s : State) : s.takeBreak.fp = s.fp := rfl
@[simp] theorem State.takeBreak_flags (s : State) : s.takeBreak.flags = s.flags := rfl
@[simp] theorem State.takeBreak_halted (s : State) : s.takeBreak.halted = true := rfl
@[simp] theorem State.takeBreak_exitCode (s : State) : s.takeBreak.exitCode = s.exitCode := rfl
@[simp] theorem State.takeBreak_faulted (s : State) : s.takeBreak.faulted = s.faulted := rfl
@[simp] theorem State.takeBreak_faultCause (s : State) : s.takeBreak.faultCause = s.faultCause := rfl
@[simp] theorem State.takeBreak_faultInfo (s : State) : s.takeBreak.faultInfo = s.faultInfo := rfl
@[simp] theorem State.takeBreak_mem (s : State) : s.takeBreak.mem = s.mem := rfl
@[simp] theorem State.takeBreak_pages (s : State) : s.takeBreak.pages = s.pages := rfl
@[simp] theorem State.takeBreak_irqGlobalEnable (s : State) : s.takeBreak.irqGlobalEnable = s.irqGlobalEnable := rfl
@[simp] theorem State.takeBreak_vec (s : State) : s.takeBreak.vec = s.vec := rfl
@[simp] theorem State.takeBreak_dbgEnabled (s : State) : s.takeBreak.dbgEnabled = s.dbgEnabled := rfl
@[simp] theorem State.takeBreak_singleStep (s : State) : s.takeBreak.singleStep = s.singleStep := rfl
@[simp] theorem State.takeBreak_breakpoints (s : State) : s.takeBreak.breakpoints = s.breakpoints := rfl
@[simp] theorem State.takeBreak_breakRequest (s : State) : s.takeBreak.breakRequest = false := rfl
@[simp] theorem State.takeBreak_instructionCount (s : State) : s.takeBreak.instructionCount = s.instructionCount := rfl
@[simp] theorem State.takeBreak_cycleCount (s : State) : s.takeBreak.cycleCount = s.cycleCount := rfl
@[simp] theorem State.takeBreak_ticks (s : State) : s.takeBreak.ticks = s.ticks := rfl
@[simp] theorem State.takeBreak_heapBase (s : State) : s.takeBreak.heapBase = s.heapBase := rfl
@[simp] theorem State.takeBreak_heapSize (s : State) : s.takeBreak.heapSize = s.heapSize := rfl
@[simp] theorem State.takeBreak_heapUsed (s : State) : s.takeBreak.heapUsed = s.heapUsed := rfl
@[simp] theorem State.takeBreak_pcWritten (s : State) : s.takeBreak.pcWritten = s.pcWritten := rfl
@[simp] theorem State.takeBreak_ir (s : State) : s.takeBreak.ir = s.ir := rfl
@[simp] theorem State.takeBreak_result (s : State) : s.takeBreak.result = s.result := rfl
@[simp] theorem State.takeBreak_handedContext (s : State) : s.takeBreak.handedContext = s.handedContext := rfl
@[simp] theorem State.takeBreak_params (s : State) : s.takeBreak.params = s.params := rfl
@[simp] theorem State.takeBreak_draws (s : State) : s.takeBreak.draws = s.draws := rfl

/-! ### `State.begun` -/

@[simp] theorem State.begun_regs (s : State) : s.begun.regs = s.regs := rfl
@[simp] theorem State.begun_pc (s : State) : s.begun.pc = s.pc := rfl
@[simp] theorem State.begun_sp (s : State) : s.begun.sp = s.sp := rfl
@[simp] theorem State.begun_fp (s : State) : s.begun.fp = s.fp := rfl
@[simp] theorem State.begun_flags (s : State) : s.begun.flags = s.flags := rfl
@[simp] theorem State.begun_halted (s : State) : s.begun.halted = s.halted := rfl
@[simp] theorem State.begun_exitCode (s : State) : s.begun.exitCode = s.exitCode := rfl
@[simp] theorem State.begun_faulted (s : State) : s.begun.faulted = s.faulted := rfl
@[simp] theorem State.begun_faultCause (s : State) : s.begun.faultCause = s.faultCause := rfl
@[simp] theorem State.begun_faultInfo (s : State) : s.begun.faultInfo = s.faultInfo := rfl
@[simp] theorem State.begun_mem (s : State) : s.begun.mem = s.mem := rfl
@[simp] theorem State.begun_pages (s : State) : s.begun.pages = s.pages := rfl
@[simp] theorem State.begun_irqGlobalEnable (s : State) : s.begun.irqGlobalEnable = s.irqGlobalEnable := rfl
@[simp] theorem State.begun_vec (s : State) : s.begun.vec = s.vec := rfl
@[simp] theorem State.begun_dbgEnabled (s : State) : s.begun.dbgEnabled = s.dbgEnabled := rfl
@[simp] theorem State.begun_singleStep (s : State) : s.begun.singleStep = s.singleStep := rfl
@[simp] theorem State.begun_breakpoints (s : State) : s.begun.breakpoints = s.breakpoints := rfl
@[simp] theorem State.begun_breakRequest (s : State) : s.begun.breakRequest = s.breakRequest := rfl
@[simp] theorem State.begun_instructionCount (s : State) : s.begun.instructionCount = s.instructionCount := rfl
@[simp] theorem State.begun_cycleCount (s : State) : s.begun.cycleCount = s.cycleCount := rfl
@[simp] theorem State.begun_ticks (s : State) : s.begun.ticks = s.ticks := rfl
@[simp] theorem State.begun_heapBase (s : State) : s.begun.heapBase = s.heapBase := rfl
@[simp] theorem State.begun_heapSize (s : State) : s.begun.heapSize = s.heapSize := rfl
@[simp] theorem State.begun_heapUsed (s : State) : s.begun.heapUsed = s.heapUsed := rfl
@[simp] theorem State.begun_pcWritten (s : State) : s.begun.pcWritten = false := rfl
@[simp] theorem State.begun_ir (s : State) : s.begun.ir = s.ir := rfl
@[simp] theorem State.begun_result (s : State) : s.begun.result = none := rfl
@[simp] theorem State.begun_handedContext (s : State) : s.begun.handedContext = s.handedContext := rfl
@[simp] theorem State.begun_params (s : State) : s.begun.params = s.params := rfl
@[simp] theorem State.begun_draws (s : State) : s.begun.draws = s.draws := rfl

/-! ### `State.setIr` -/

@[simp] theorem State.setIr_regs (s : State) (w : Word) : (s.setIr w).regs = s.regs := rfl
@[simp] theorem State.setIr_pc (s : State) (w : Word) : (s.setIr w).pc = s.pc := rfl
@[simp] theorem State.setIr_sp (s : State) (w : Word) : (s.setIr w).sp = s.sp := rfl
@[simp] theorem State.setIr_fp (s : State) (w : Word) : (s.setIr w).fp = s.fp := rfl
@[simp] theorem State.setIr_flags (s : State) (w : Word) : (s.setIr w).flags = s.flags := rfl
@[simp] theorem State.setIr_halted (s : State) (w : Word) : (s.setIr w).halted = s.halted := rfl
@[simp] theorem State.setIr_exitCode (s : State) (w : Word) : (s.setIr w).exitCode = s.exitCode := rfl
@[simp] theorem State.setIr_faulted (s : State) (w : Word) : (s.setIr w).faulted = s.faulted := rfl
@[simp] theorem State.setIr_faultCause (s : State) (w : Word) : (s.setIr w).faultCause = s.faultCause := rfl
@[simp] theorem State.setIr_faultInfo (s : State) (w : Word) : (s.setIr w).faultInfo = s.faultInfo := rfl
@[simp] theorem State.setIr_mem (s : State) (w : Word) : (s.setIr w).mem = s.mem := rfl
@[simp] theorem State.setIr_pages (s : State) (w : Word) : (s.setIr w).pages = s.pages := rfl
@[simp] theorem State.setIr_irqGlobalEnable (s : State) (w : Word) : (s.setIr w).irqGlobalEnable = s.irqGlobalEnable := rfl
@[simp] theorem State.setIr_vec (s : State) (w : Word) : (s.setIr w).vec = s.vec := rfl
@[simp] theorem State.setIr_dbgEnabled (s : State) (w : Word) : (s.setIr w).dbgEnabled = s.dbgEnabled := rfl
@[simp] theorem State.setIr_singleStep (s : State) (w : Word) : (s.setIr w).singleStep = s.singleStep := rfl
@[simp] theorem State.setIr_breakpoints (s : State) (w : Word) : (s.setIr w).breakpoints = s.breakpoints := rfl
@[simp] theorem State.setIr_breakRequest (s : State) (w : Word) : (s.setIr w).breakRequest = s.breakRequest := rfl
@[simp] theorem State.setIr_instructionCount (s : State) (w : Word) : (s.setIr w).instructionCount = s.instructionCount := rfl
@[simp] theorem State.setIr_cycleCount (s : State) (w : Word) : (s.setIr w).cycleCount = s.cycleCount := rfl
@[simp] theorem State.setIr_ticks (s : State) (w : Word) : (s.setIr w).ticks = s.ticks := rfl
@[simp] theorem State.setIr_heapBase (s : State) (w : Word) : (s.setIr w).heapBase = s.heapBase := rfl
@[simp] theorem State.setIr_heapSize (s : State) (w : Word) : (s.setIr w).heapSize = s.heapSize := rfl
@[simp] theorem State.setIr_heapUsed (s : State) (w : Word) : (s.setIr w).heapUsed = s.heapUsed := rfl
@[simp] theorem State.setIr_pcWritten (s : State) (w : Word) : (s.setIr w).pcWritten = s.pcWritten := rfl
@[simp] theorem State.setIr_ir (s : State) (w : Word) : (s.setIr w).ir = w := rfl
@[simp] theorem State.setIr_result (s : State) (w : Word) : (s.setIr w).result = s.result := rfl
@[simp] theorem State.setIr_handedContext (s : State) (w : Word) : (s.setIr w).handedContext = s.handedContext := rfl
@[simp] theorem State.setIr_params (s : State) (w : Word) : (s.setIr w).params = s.params := rfl
@[simp] theorem State.setIr_draws (s : State) (w : Word) : (s.setIr w).draws = s.draws := rfl

/-! ### `State.count` -/

@[simp] theorem State.count_regs (s : State) : s.count.regs = s.regs := rfl
@[simp] theorem State.count_pc (s : State) : s.count.pc = s.pc := rfl
@[simp] theorem State.count_sp (s : State) : s.count.sp = s.sp := rfl
@[simp] theorem State.count_fp (s : State) : s.count.fp = s.fp := rfl
@[simp] theorem State.count_flags (s : State) : s.count.flags = s.flags := rfl
@[simp] theorem State.count_halted (s : State) : s.count.halted = s.halted := rfl
@[simp] theorem State.count_exitCode (s : State) : s.count.exitCode = s.exitCode := rfl
@[simp] theorem State.count_faulted (s : State) : s.count.faulted = s.faulted := rfl
@[simp] theorem State.count_faultCause (s : State) : s.count.faultCause = s.faultCause := rfl
@[simp] theorem State.count_faultInfo (s : State) : s.count.faultInfo = s.faultInfo := rfl
@[simp] theorem State.count_mem (s : State) : s.count.mem = s.mem := rfl
@[simp] theorem State.count_pages (s : State) : s.count.pages = s.pages := rfl
@[simp] theorem State.count_irqGlobalEnable (s : State) : s.count.irqGlobalEnable = s.irqGlobalEnable := rfl
@[simp] theorem State.count_vec (s : State) : s.count.vec = s.vec := rfl
@[simp] theorem State.count_dbgEnabled (s : State) : s.count.dbgEnabled = s.dbgEnabled := rfl
@[simp] theorem State.count_singleStep (s : State) : s.count.singleStep = s.singleStep := rfl
@[simp] theorem State.count_breakpoints (s : State) : s.count.breakpoints = s.breakpoints := rfl
@[simp] theorem State.count_breakRequest (s : State) : s.count.breakRequest = s.breakRequest := rfl
@[simp] theorem State.count_instructionCount (s : State) : s.count.instructionCount = s.instructionCount + 1 := rfl
@[simp] theorem State.count_cycleCount (s : State) : s.count.cycleCount = s.cycleCount + 1 := rfl
@[simp] theorem State.count_ticks (s : State) : s.count.ticks = s.ticks := rfl
@[simp] theorem State.count_heapBase (s : State) : s.count.heapBase = s.heapBase := rfl
@[simp] theorem State.count_heapSize (s : State) : s.count.heapSize = s.heapSize := rfl
@[simp] theorem State.count_heapUsed (s : State) : s.count.heapUsed = s.heapUsed := rfl
@[simp] theorem State.count_pcWritten (s : State) : s.count.pcWritten = s.pcWritten := rfl
@[simp] theorem State.count_ir (s : State) : s.count.ir = s.ir := rfl
@[simp] theorem State.count_result (s : State) : s.count.result = s.result := rfl
@[simp] theorem State.count_handedContext (s : State) : s.count.handedContext = s.handedContext := rfl
@[simp] theorem State.count_params (s : State) : s.count.params = s.params := rfl
@[simp] theorem State.count_draws (s : State) : s.count.draws = s.draws := rfl

/-! ### `State.incrementPc`, whose only field is pc -/

@[simp] theorem State.incrementPc_regs (s : State) : s.incrementPc.regs = s.regs := by
  unfold State.incrementPc; split <;> rfl
@[simp] theorem State.incrementPc_pc (s : State) :
    s.incrementPc.pc = if s.pcWritten then s.pc else s.pc + 4 := by
  unfold State.incrementPc; split <;> rfl
@[simp] theorem State.incrementPc_sp (s : State) : s.incrementPc.sp = s.sp := by
  unfold State.incrementPc; split <;> rfl
@[simp] theorem State.incrementPc_fp (s : State) : s.incrementPc.fp = s.fp := by
  unfold State.incrementPc; split <;> rfl
@[simp] theorem State.incrementPc_flags (s : State) : s.incrementPc.flags = s.flags := by
  unfold State.incrementPc; split <;> rfl
@[simp] theorem State.incrementPc_halted (s : State) : s.incrementPc.halted = s.halted := by
  unfold State.incrementPc; split <;> rfl
@[simp] theorem State.incrementPc_exitCode (s : State) : s.incrementPc.exitCode = s.exitCode := by
  unfold State.incrementPc; split <;> rfl
@[simp] theorem State.incrementPc_faulted (s : State) : s.incrementPc.faulted = s.faulted := by
  unfold State.incrementPc; split <;> rfl
@[simp] theorem State.incrementPc_faultCause (s : State) : s.incrementPc.faultCause = s.faultCause := by
  unfold State.incrementPc; split <;> rfl
@[simp] theorem State.incrementPc_faultInfo (s : State) : s.incrementPc.faultInfo = s.faultInfo := by
  unfold State.incrementPc; split <;> rfl
@[simp] theorem State.incrementPc_mem (s : State) : s.incrementPc.mem = s.mem := by
  unfold State.incrementPc; split <;> rfl
@[simp] theorem State.incrementPc_pages (s : State) : s.incrementPc.pages = s.pages := by
  unfold State.incrementPc; split <;> rfl
@[simp] theorem State.incrementPc_irqGlobalEnable (s : State) : s.incrementPc.irqGlobalEnable = s.irqGlobalEnable := by
  unfold State.incrementPc; split <;> rfl
@[simp] theorem State.incrementPc_vec (s : State) : s.incrementPc.vec = s.vec := by
  unfold State.incrementPc; split <;> rfl
@[simp] theorem State.incrementPc_dbgEnabled (s : State) : s.incrementPc.dbgEnabled = s.dbgEnabled := by
  unfold State.incrementPc; split <;> rfl
@[simp] theorem State.incrementPc_singleStep (s : State) : s.incrementPc.singleStep = s.singleStep := by
  unfold State.incrementPc; split <;> rfl
@[simp] theorem State.incrementPc_breakpoints (s : State) : s.incrementPc.breakpoints = s.breakpoints := by
  unfold State.incrementPc; split <;> rfl
@[simp] theorem State.incrementPc_breakRequest (s : State) : s.incrementPc.breakRequest = s.breakRequest := by
  unfold State.incrementPc; split <;> rfl
@[simp] theorem State.incrementPc_instructionCount (s : State) : s.incrementPc.instructionCount = s.instructionCount := by
  unfold State.incrementPc; split <;> rfl
@[simp] theorem State.incrementPc_cycleCount (s : State) : s.incrementPc.cycleCount = s.cycleCount := by
  unfold State.incrementPc; split <;> rfl
@[simp] theorem State.incrementPc_ticks (s : State) : s.incrementPc.ticks = s.ticks := by
  unfold State.incrementPc; split <;> rfl
@[simp] theorem State.incrementPc_heapBase (s : State) : s.incrementPc.heapBase = s.heapBase := by
  unfold State.incrementPc; split <;> rfl
@[simp] theorem State.incrementPc_heapSize (s : State) : s.incrementPc.heapSize = s.heapSize := by
  unfold State.incrementPc; split <;> rfl
@[simp] theorem State.incrementPc_heapUsed (s : State) : s.incrementPc.heapUsed = s.heapUsed := by
  unfold State.incrementPc; split <;> rfl
@[simp] theorem State.incrementPc_pcWritten (s : State) : s.incrementPc.pcWritten = s.pcWritten := by
  unfold State.incrementPc; split <;> rfl
@[simp] theorem State.incrementPc_ir (s : State) : s.incrementPc.ir = s.ir := by
  unfold State.incrementPc; split <;> rfl
@[simp] theorem State.incrementPc_result (s : State) : s.incrementPc.result = s.result := by
  unfold State.incrementPc; split <;> rfl
@[simp] theorem State.incrementPc_handedContext (s : State) : s.incrementPc.handedContext = s.handedContext := by
  unfold State.incrementPc; split <;> rfl
@[simp] theorem State.incrementPc_params (s : State) : s.incrementPc.params = s.params := by
  unfold State.incrementPc; split <;> rfl
@[simp] theorem State.incrementPc_draws (s : State) : s.incrementPc.draws = s.draws := by
  unfold State.incrementPc; split <;> rfl

/-! ### Registers -/

@[simp] theorem State.reg_setReg_same (s : State) (r : Reg) (v : Word) : (s.setReg r v).reg r = v := by
  simp [State.reg]

theorem State.reg_setReg_ne (s : State) {r q : Reg} (v : Word) (h : q ≠ r) : (s.setReg r v).reg q = s.reg q := by
  have : r.val ≠ q.val := fun e => h (Fin.ext e).symm
  simp [State.reg, this]

theorem State.reg_setReg (s : State) (r q : Reg) (v : Word) :
    (s.setReg r v).reg q = if q = r then v else s.reg q := by
  split
  · next h => subst h; simp
  · next h => exact State.reg_setReg_ne s v h

@[simp] theorem State.jump_reg (s : State) (t : Word) (q : Reg) : (s.jump t).reg q = s.reg q := rfl
@[simp] theorem State.setSp_reg (s : State) (v : Word) (q : Reg) : (s.setSp v).reg q = s.reg q := rfl
@[simp] theorem State.setFlags_reg (s : State) (f : Flags) (q : Reg) : (s.setFlags f).reg q = s.reg q := rfl
@[simp] theorem State.setMem_reg (s : State) (m : Memory) (q : Reg) : (s.setMem m).reg q = s.reg q := rfl
@[simp] theorem State.drawn_reg (s : State) (q : Reg) : s.drawn.reg q = s.reg q := rfl
@[simp] theorem State.raise_reg (s : State) (e : Exc) (q : Reg) : (s.raise e).reg q = s.reg q := rfl
@[simp] theorem State.enterHandler_reg (s : State) (i : Irq) (q : Reg) : (s.enterHandler i).reg q = s.reg q := rfl
@[simp] theorem State.advanceTime_reg (s : State) (n : Word) (q : Reg) : (s.advanceTime n).reg q = s.reg q := rfl
@[simp] theorem State.ended_reg (s : State) (r : StepResult) (q : Reg) : (s.ended r).reg q = s.reg q := rfl
@[simp] theorem State.takeBreak_reg (s : State) (q : Reg) : s.takeBreak.reg q = s.reg q := rfl
@[simp] theorem State.begun_reg (s : State) (q : Reg) : s.begun.reg q = s.reg q := rfl
@[simp] theorem State.setIr_reg (s : State) (w : Word) (q : Reg) : (s.setIr w).reg q = s.reg q := rfl
@[simp] theorem State.count_reg (s : State) (q : Reg) : s.count.reg q = s.reg q := rfl

/-! ### Checks read the page table alone -/

@[simp] theorem State.setReg_check (s : State) (r : Reg) (v : Word) : (s.setReg r v).check = s.check := rfl
@[simp] theorem State.jump_check (s : State) (t : Word) : (s.jump t).check = s.check := rfl
@[simp] theorem State.setSp_check (s : State) (v : Word) : (s.setSp v).check = s.check := rfl
@[simp] theorem State.setFlags_check (s : State) (f : Flags) : (s.setFlags f).check = s.check := rfl
@[simp] theorem State.setMem_check (s : State) (m : Memory) : (s.setMem m).check = s.check := rfl
@[simp] theorem State.drawn_check (s : State) : s.drawn.check = s.check := rfl
@[simp] theorem State.raise_check (s : State) (e : Exc) : (s.raise e).check = s.check := rfl
@[simp] theorem State.enterHandler_check (s : State) (i : Irq) : (s.enterHandler i).check = s.check := rfl
@[simp] theorem State.advanceTime_check (s : State) (n : Word) : (s.advanceTime n).check = s.check := rfl
@[simp] theorem State.ended_check (s : State) (r : StepResult) : (s.ended r).check = s.check := rfl
@[simp] theorem State.takeBreak_check (s : State) : s.takeBreak.check = s.check := rfl
@[simp] theorem State.begun_check (s : State) : s.begun.check = s.check := rfl
@[simp] theorem State.setIr_check (s : State) (w : Word) : (s.setIr w).check = s.check := rfl
@[simp] theorem State.count_check (s : State) : s.count.check = s.check := rfl

@[simp] theorem State.incrementPc_check (s : State) : s.incrementPc.check = s.check := by
  unfold State.incrementPc; split <;> rfl

end Sys2Proof.Machine
end

