-- ==== Sys2Proof/Laws/Ops.lean ====
section
/-! SUPPORT. For each shared operation, one lemma that says once everything it can do. -/

namespace Sys2Proof.Machine

/-! ### Words in memory (R13, R108) -/

@[simp] theorem bytesOfWord_length (w : Word) : (bytesOfWord w).length = 4 := rfl

/-- The bytes of a word put together again are the word. -/
theorem wordOfBytes_byteOfWord (w : Word) :
    wordOfBytes (byteOfWord w 0) (byteOfWord w 1) (byteOfWord w 2) (byteOfWord w 3) = w := by
  apply BitVec.eq_of_getLsbD_eq
  intro i hi
  simp only [wordOfBytes, byteOfWord, BitVec.getLsbD_append, BitVec.getLsbD_extractLsb']
  rcases Nat.lt_or_ge i 8 with h8 | h8
  · simp [h8]
  rcases Nat.lt_or_ge i 16 with h16 | h16
  · simp [show ¬ i < 8 by omega, show i - 8 < 8 by omega, show 8 + (i - 8) = i by omega]
  rcases Nat.lt_or_ge i 24 with h24 | h24
  · simp [show ¬ i < 8 by omega, show ¬ i - 8 < 8 by omega, show i - 8 - 8 < 8 by omega, show 16 + (i - 8 - 8) = i by omega]
  · simp [show ¬ i < 8 by omega, show ¬ i - 8 < 8 by omega, show ¬ i - 8 - 8 < 8 by omega, show i - 8 - 8 - 8 < 8 by omega,
      show 24 + (i - 8 - 8 - 8) = i by omega]

/-- Each byte after a word is stored in range: byte k of the word at the word's address plus k, every other byte as before
(R13, R108). -/
theorem byte_storeWord {s : State} (hm : memWf s.mem) {a : Word} (v : Word) (h : a.toNat + 4 ≤ memSize) (b : Nat) :
    (s.storeWord a v).byte b =
      if a.toNat ≤ b ∧ b < a.toNat + 4 then byteOfWord v (b - a.toNat) else s.byte b := by
  have hr := memRead_memWriteBytes hm (a := a.toNat) (vs := bytesOfWord v) (by simpa using h) b
  unfold State.byte State.storeWord
  rw [State.setMem_mem, hr]
  by_cases hab : a.toNat ≤ b
  · by_cases hb : b < a.toNat + 4
    · obtain ⟨k, hk⟩ := Nat.exists_eq_add_of_le hab
      have hk4 : k < 4 := by omega
      simp only [hk, Nat.le_add_right, Nat.add_sub_cancel_left, if_true, true_and]
      rw [if_pos (by omega)]
      interval_cases k <;> rfl
    · rw [if_pos hab, if_neg (by omega), List.getElem?_eq_none (by simp; omega)]
      rfl
  · rw [if_neg hab, if_neg (by omega)]

/-- A word stored in range is read back (R13, R118). -/
theorem loadWord_storeWord {s : State} (hm : memWf s.mem) {a : Word} (v : Word) (h : a.toNat + 4 ≤ memSize) :
    (s.storeWord a v).loadWord a = v := by
  simp only [State.loadWord, byte_storeWord hm v h]
  simpa using wordOfBytes_byteOfWord v

/-- Storing a word keeps the canonical form of memory. -/
theorem memWf_storeWord {s : State} (hm : memWf s.mem) (a v : Word) : memWf (s.storeWord a v).mem :=
  memWf_memWriteBytes hm _ _

/-! ### The access check (R110) -/

theorem mem_pagesTouched {a n p : Nat} (h : 0 < n) :
    p ∈ pagesTouched a n ↔ a / pageSize ≤ p ∧ p ≤ (a + n - 1) / pageSize := by
  simp only [pagesTouched, List.mem_range'_1]
  have : a / pageSize ≤ (a + n - 1) / pageSize := Nat.div_le_div_right (by omega)
  omega

/-- A check of at least one byte passes exactly where every byte is in range and every page touched grants the access. -/
theorem checkAccess_eq_none {pt : PageTable} {k : AccessKind} {a : Word} {n : Nat} (h : 0 < n) :
    checkAccess pt k a n = none ↔
      a.toNat + n ≤ memSize ∧ ∀ p ∈ pagesTouched a.toNat n, pageReason k (pageEntry pt p) = none := by
  unfold checkAccess
  rw [if_neg (by omega)]
  split
  · next hr => simp; omega
  · next hr =>
    rw [List.findSome?_eq_none_iff]
    exact ⟨fun hp => ⟨by omega, hp⟩, fun hp => hp.2⟩

/-- A check that passes: its bytes are in range. -/
theorem check_none_range {s : State} {k : AccessKind} {a : Word} {n : Nat} (h : 0 < n) (hc : s.check k a n = none) :
    a.toNat + n ≤ memSize :=
  ((checkAccess_eq_none h).1 hc).1

/-- A check that passes: the page of each of its bytes grants the access. -/
theorem check_none_page {s : State} {k : AccessKind} {a : Word} {n b : Nat} (hc : s.check k a n = none)
    (hb : a.toNat ≤ b) (hbn : b < a.toNat + n) : pageReason k (pageEntry s.pages (b / pageSize)) = none := by
  have h : 0 < n := by omega
  refine ((checkAccess_eq_none h).1 hc).2 _ ((mem_pagesTouched h).2 ⟨Nat.div_le_div_right hb, Nat.div_le_div_right ?_⟩)
  omega

/-! ### Faults -/

@[simp] theorem orRaise_ok (s t : State) : s.orRaise (.ok t) = t := rfl

@[simp] theorem orRaise_error (s : State) (e : Exc) : s.orRaise (.error e) = s.raise e := rfl

/-! ### The stack -/

/-- Everything a push can do. -/
theorem push_cases (s : State) (k : AccessKind) (v : Word) :
    (∃ r, s.check k (s.sp - 4) 4 = some r ∧ s.push k v = .error (.memory k (s.sp - 4) 4 r)) ∨
    (s.check k (s.sp - 4) 4 = none ∧ s.push k v = .ok ((s.storeWord (s.sp - 4) v).setSp (s.sp - 4))) := by
  unfold State.push
  split
  · next r h => exact .inl ⟨r, h, rfl⟩
  · next h => exact .inr ⟨h, rfl⟩

/-- Everything the return can do. -/
theorem popReturn_cases (s : State) :
    (∃ r, s.check .pop s.sp 4 = some r ∧ s.popReturn = .error (.memory .pop s.sp 4 r)) ∨
    (s.check .pop s.sp 4 = none ∧ s.popReturn = .ok ((s.setSp (s.sp + 4)).jump (s.loadWord s.sp))) := by
  unfold State.popReturn
  split
  · next r h => exact .inl ⟨r, h, rfl⟩
  · next h => exact .inr ⟨h, rfl⟩

/-- Everything CALL can do after its target is known. -/
theorem callTo_cases (s : State) (t : Word) :
    (∃ r, s.check .push (s.sp - 4) 4 = some r ∧ callTo s t = .error (.memory .push (s.sp - 4) 4 r)) ∨
    (s.check .push (s.sp - 4) 4 = none ∧
      callTo s t = .ok (((s.storeWord (s.sp - 4) (s.pc + 4)).setSp (s.sp - 4)).jump t)) := by
  rcases push_cases s .push (s.pc + 4) with ⟨r, hc, hp⟩ | ⟨hc, hp⟩
  · exact .inl ⟨r, hc, by simp only [callTo, hp]⟩
  · exact .inr ⟨hc, by simp only [callTo, hp]⟩

/-- Everything a read-modify-write can do. -/
theorem readModifyWrite_cases (rs1 : Reg) (f : Word → State) (s : State) :
    (∃ r, s.check .rmw (s.reg rs1) 4 = some r ∧
      readModifyWrite rs1 f s = s.raise (.memory .rmw (s.reg rs1) 4 r)) ∨
    (s.check .rmw (s.reg rs1) 4 = none ∧ readModifyWrite rs1 f s = f (s.loadWord (s.reg rs1))) := by
  unfold readModifyWrite State.readCell
  split
  · next e h =>
    split at h
    · next r hr => exact .inl ⟨r, hr, by cases h; rfl⟩
    · cases h
  · next w h =>
    split at h
    · cases h
    · next hr => exact .inr ⟨hr, by cases h; rfl⟩

/-! ### Draws -/

/-- Everything the write of a possible draw can do. -/
theorem writeOrDraw_cases (rd : Reg) (free : Word) (r : Option Word) (s : State) :
    (∃ v, r = some v ∧ writeOrDraw rd free r s = s.setReg rd v) ∨
    (r = none ∧ writeOrDraw rd free r s = (s.setReg rd free).drawn) := by
  cases r with
  | none => exact .inr ⟨rfl, rfl⟩
  | some v => exact .inl ⟨v, rfl, rfl⟩

/-! ### The interrupt dispatcher -/

/-- Everything the dispatcher can do (R433, R437). -/
theorem dispatchIrq_cases (s : State) :
    (dispatchIrq s = s ∧ (s.irqGlobalEnable = false ∨ s.readyVector = none)) ∨
    (∃ i, s.irqGlobalEnable = true ∧ s.readyVector = some i ∧
      ((∃ r, s.check (.irqPush i) (s.sp - 4) 4 = some r ∧
          dispatchIrq s = s.raise (.memory (.irqPush i) (s.sp - 4) 4 r)) ∨
        (s.check (.irqPush i) (s.sp - 4) 4 = none ∧
          dispatchIrq s = ((s.storeWord (s.sp - 4) s.pc).setSp (s.sp - 4)).enterHandler i))) := by
  unfold dispatchIrq
  split
  · next hg =>
    split
    · next hn => exact .inl ⟨rfl, .inr hn⟩
    · next i hi =>
      refine .inr ⟨i, hg, hi, ?_⟩
      rcases push_cases s (.irqPush i) s.pc with ⟨r, hc, hp⟩ | ⟨hc, hp⟩
      · exact .inl ⟨r, hc, by simp [hp]⟩
      · exact .inr ⟨hc, by simp [hp]⟩
  · next hg => exact .inl ⟨rfl, .inl (by simpa using hg)⟩

/-- The vector the dispatcher takes is ready, and no lower one is (R434). -/
theorem readyVector_some {s : State} {i : Irq} (h : s.readyVector = some i) :
    s.ready i = true ∧ ∀ j < i, s.ready j = false := by
  unfold State.readyVector at h
  refine ⟨List.find?_some h, fun j hj => ?_⟩
  obtain ⟨_, as, bs, heq, has⟩ := List.find?_eq_some_iff_append.1 h
  have hmem : j ∈ as := by
    have hsorted : (List.finRange 32).Pairwise (· < ·) := List.pairwise_lt_finRange 32
    have hj' : j ∈ as ++ i :: bs := heq ▸ List.mem_finRange j
    rcases List.mem_append.1 hj' with hj' | hj'
    · exact hj'
    · rw [heq, List.pairwise_append] at hsorted
      rcases List.mem_cons.1 hj' with rfl | hj'
      · exact absurd hj (lt_irrefl _)
      · exact absurd (List.rel_of_pairwise_cons hsorted.2.1 hj') (not_lt.2 hj.le)
  simpa using has j hmem

/-! ### Before and after the instruction -/

/-- Everything that can happen before the fetch (R402 to R404, R423). -/
theorem stepIdle_cases (s : State) :
    (s.breakRequest = true ∧ stepIdle s = some (s.takeBreak.ended .halted)) ∨
    (s.breakRequest = false ∧ s.halted = true ∧ stepIdle s = some (s.ended .halted)) ∨
    (s.breakRequest = false ∧ s.halted = false ∧ s.atBreakpoint = true ∧ stepIdle s = some (s.ended .paused)) ∨
    (s.breakRequest = false ∧ s.halted = false ∧ s.atBreakpoint = false ∧ stepIdle s = none) := by
  unfold stepIdle
  cases s.breakRequest <;> cases s.halted <;> cases s.atBreakpoint <;> simp

/-- Everything fetch and decode can do (R406 to R408). -/
theorem fetchDecode_cases (s : State) :
    (∃ r, s.check .fetch s.pc 4 = some r ∧
      fetchDecode s = .error (s.begun.raise (.memory .fetch s.pc 4 r))) ∨
    (s.check .fetch s.pc 4 = none ∧ lookupOp s.params.opcodeMap (opcodeOf (s.loadWord s.pc)) = none ∧
      fetchDecode s = .error ((s.begun.setIr (s.loadWord s.pc)).raise .illegalOpcode)) ∨
    (∃ i, s.check .fetch s.pc 4 = none ∧ decodeWord s.params.opcodeMap (s.loadWord s.pc) = .ok i ∧
      fetchDecode s = .ok (i, s.begun.setIr (s.loadWord s.pc))) := by
  have hb : s.begun.check .fetch s.begun.pc 4 = s.check .fetch s.pc 4 := rfl
  have hl : s.begun.loadWord s.begun.pc = s.loadWord s.pc := rfl
  unfold fetchDecode fetchWord
  rw [hb, hl]
  rcases hc : s.check .fetch s.pc 4 with _ | r
  · cases hd : decodeWord s.params.opcodeMap (s.loadWord s.pc) with
    | error e =>
      refine .inr (.inl ⟨rfl, ?_, by simp only [hd]⟩)
      unfold decodeWord at hd
      split at hd
      · cases hd
      · next hn => exact hn
    | ok i => exact .inr (.inr ⟨i, rfl, rfl, by simp only [hd]⟩)
  · exact .inl ⟨r, rfl, by simp⟩

/-- Everything that can follow an instruction's own rule (R401, R411). -/
theorem finishStep_cases (s : State) :
    (s.result = some .fault ∧ finishStep s = s) ∨
    (s.result ≠ some .fault ∧ s.halted = true ∧ finishStep s = s.retire.ended .halted) ∨
    (s.result ≠ some .fault ∧ s.halted = false ∧ finishStep s = (dispatchIrq s.retire).concluded) := by
  have hh : s.retire.halted = s.halted := by simp [State.retire]
  unfold finishStep
  rw [hh]
  by_cases hf : s.result = some .fault
  · simp [hf]
  · cases h : s.halted <;> simp [hf]

/-- Everything the end of a step can do (R405, R437). -/
theorem concluded_cases (s : State) :
    (s.result = some .fault ∧ s.concluded = s) ∨
    (s.result ≠ some .fault ∧ s.concluded = s.ended (if s.singleStep then .paused else .continued)) := by
  unfold State.concluded
  by_cases hf : s.result = some .fault
  · simp [hf]
  · cases s.singleStep <;> simp [hf]

/-- Every way one step answers a next state: no instruction runs, the fetch or decode faults, or the decoded instruction's
meaning answers and the step is finished (R401). -/
theorem step_next_cases {s t : State} (h : step s = .next t) :
    stepIdle s = some t ∨
    (stepIdle s = none ∧ fetchDecode s = .error t) ∨
    (∃ i u v, stepIdle s = none ∧ fetchDecode s = .ok (i, u) ∧ exec i u = .next v ∧ t = finishStep v) := by
  unfold step at h
  split at h
  · next u hu => cases h; exact .inl hu
  · next hn =>
    split at h
    · next u hu => cases h; exact .inr (.inl ⟨hn, hu⟩)
    · next i u hu =>
      split at h
      · next v hv => cases h; exact .inr (.inr ⟨i, u, v, hn, hu, hv, rfl⟩)
      · cases h
      · cases h

end Sys2Proof.Machine
end

