-- ==== Sys2Proof/Laws/PerInstr.lean ====
section
/-! SUPPORT. Statements about every instruction, one lemma per constructor of `Instr`. -/

namespace Sys2Proof.Laws

/-! ### The opcode byte of an encoded word (R151 to R153, R157) -/

theorem opcodeOf_encodeR (b : Byte) (rd rs1 rs2 : Nat) : opcodeOf (encodeR b.toNat rd rs1 rs2) = b := by
  apply BitVec.eq_of_getLsbD_eq
  intro i hi
  simp [opcodeOf, encodeR, hi, show 24 + i < 32 by omega, show ¬ 24 + i < 16 by omega, show ¬ 24 + i < 8 by omega,
    BitVec.getLsbD_of_ge (BitVec.ofNat 4 rd) (24 + i - 16) (by omega), BitVec.getLsbD_of_ge (BitVec.ofNat 4 rs1) (24 + i - 8) (by omega),
    BitVec.getLsbD_of_ge (BitVec.ofNat 4 rs2) (24 + i) (by omega)]

theorem opcodeOf_encodeI (b : Byte) (rd : Nat) (imm : Int) : opcodeOf (encodeI b.toNat rd imm) = b := by
  apply BitVec.eq_of_getLsbD_eq
  intro i hi
  simp [opcodeOf, encodeI, hi, show 24 + i < 32 by omega, show ¬ 24 + i < 16 by omega,
    BitVec.getLsbD_of_ge (BitVec.ofNat 4 rd) (24 + i - 16) (by omega), BitVec.getLsbD_of_ge (BitVec.ofInt 16 imm) (24 + i) (by omega)]

theorem opcodeOf_encodeJ (b : Byte) (imm : Int) : opcodeOf (encodeJ b.toNat imm) = b := by
  apply BitVec.eq_of_getLsbD_eq
  intro i hi
  simp [opcodeOf, encodeJ, hi, show 24 + i < 32 by omega]

/-- The canonical word of the instruction carries, under every opcode map, the opcode byte that the map gives it. -/
def EncodedOpcode.Statement (i : Instr) : Prop :=
  ∀ m : OpcodeMap, opcodeOf (encode m i) = opcodeByte m i.op

theorem EncodedOpcode.add (rd rs1 rs2 : Reg) : EncodedOpcode.Statement (.add rd rs1 rs2) :=
  fun m => opcodeOf_encodeR (opcodeByte m .add) rd rs1 rs2

theorem EncodedOpcode.sub (rd rs1 rs2 : Reg) : EncodedOpcode.Statement (.sub rd rs1 rs2) :=
  fun m => opcodeOf_encodeR (opcodeByte m .sub) rd rs1 rs2

theorem EncodedOpcode.mul (rd rs1 rs2 : Reg) : EncodedOpcode.Statement (.mul rd rs1 rs2) :=
  fun m => opcodeOf_encodeR (opcodeByte m .mul) rd rs1 rs2

theorem EncodedOpcode.div (rd rs1 rs2 : Reg) : EncodedOpcode.Statement (.div rd rs1 rs2) :=
  fun m => opcodeOf_encodeR (opcodeByte m .div) rd rs1 rs2

theorem EncodedOpcode.mod (rd rs1 rs2 : Reg) : EncodedOpcode.Statement (.mod rd rs1 rs2) :=
  fun m => opcodeOf_encodeR (opcodeByte m .mod) rd rs1 rs2

theorem EncodedOpcode.and (rd rs1 rs2 : Reg) : EncodedOpcode.Statement (.and rd rs1 rs2) :=
  fun m => opcodeOf_encodeR (opcodeByte m .and) rd rs1 rs2

theorem EncodedOpcode.or (rd rs1 rs2 : Reg) : EncodedOpcode.Statement (.or rd rs1 rs2) :=
  fun m => opcodeOf_encodeR (opcodeByte m .or) rd rs1 rs2

theorem EncodedOpcode.xor (rd rs1 rs2 : Reg) : EncodedOpcode.Statement (.xor rd rs1 rs2) :=
  fun m => opcodeOf_encodeR (opcodeByte m .xor) rd rs1 rs2

theorem EncodedOpcode.cmp (rs1 rs2 : Reg) : EncodedOpcode.Statement (.cmp rs1 rs2) :=
  fun m => opcodeOf_encodeR (opcodeByte m .cmp) 0 rs1 rs2

theorem EncodedOpcode.test (rs1 rs2 : Reg) : EncodedOpcode.Statement (.test rs1 rs2) :=
  fun m => opcodeOf_encodeR (opcodeByte m .test) 0 rs1 rs2

theorem EncodedOpcode.slt (rd rs1 rs2 : Reg) : EncodedOpcode.Statement (.slt rd rs1 rs2) :=
  fun m => opcodeOf_encodeR (opcodeByte m .slt) rd rs1 rs2

theorem EncodedOpcode.sle (rd rs1 rs2 : Reg) : EncodedOpcode.Statement (.sle rd rs1 rs2) :=
  fun m => opcodeOf_encodeR (opcodeByte m .sle) rd rs1 rs2

theorem EncodedOpcode.seq (rd rs1 rs2 : Reg) : EncodedOpcode.Statement (.seq rd rs1 rs2) :=
  fun m => opcodeOf_encodeR (opcodeByte m .seq) rd rs1 rs2

theorem EncodedOpcode.sne (rd rs1 rs2 : Reg) : EncodedOpcode.Statement (.sne rd rs1 rs2) :=
  fun m => opcodeOf_encodeR (opcodeByte m .sne) rd rs1 rs2

theorem EncodedOpcode.loadi (rd : Reg) (imm : Word) : EncodedOpcode.Statement (.loadi rd imm) :=
  fun m => opcodeOf_encodeI (opcodeByte m .loadi) rd imm.toInt

theorem EncodedOpcode.move (rd rs1 : Reg) : EncodedOpcode.Statement (.move rd rs1) :=
  fun m => opcodeOf_encodeR (opcodeByte m .move) rd rs1 0

theorem EncodedOpcode.jmp (target : Word) : EncodedOpcode.Statement (.jmp target) :=
  fun m => opcodeOf_encodeJ (opcodeByte m .jmp) target.toInt

theorem EncodedOpcode.jz (target : Word) : EncodedOpcode.Statement (.jz target) :=
  fun m => opcodeOf_encodeJ (opcodeByte m .jz) target.toInt

theorem EncodedOpcode.jnz (target : Word) : EncodedOpcode.Statement (.jnz target) :=
  fun m => opcodeOf_encodeJ (opcodeByte m .jnz) target.toInt

theorem EncodedOpcode.call (target : Word) : EncodedOpcode.Statement (.call target) :=
  fun m => opcodeOf_encodeJ (opcodeByte m .call) target.toInt

theorem EncodedOpcode.ret : EncodedOpcode.Statement .ret :=
  fun m => opcodeOf_encodeR (opcodeByte m .ret) 0 0 0

theorem EncodedOpcode.syscall : EncodedOpcode.Statement .syscall :=
  fun m => opcodeOf_encodeR (opcodeByte m .syscall) 0 0 0

theorem EncodedOpcode.halt : EncodedOpcode.Statement .halt :=
  fun m => opcodeOf_encodeR (opcodeByte m .halt) 0 0 0

theorem EncodedOpcode.xchg (rd rs1 rs2 : Reg) : EncodedOpcode.Statement (.xchg rd rs1 rs2) :=
  fun m => opcodeOf_encodeR (opcodeByte m .xchg) rd rs1 rs2

theorem EncodedOpcode.cas (rd rs1 rs2 : Reg) : EncodedOpcode.Statement (.cas rd rs1 rs2) :=
  fun m => opcodeOf_encodeR (opcodeByte m .cas) rd rs1 rs2

theorem EncodedOpcode.faddAtomic (rd rs1 rs2 : Reg) : EncodedOpcode.Statement (.faddAtomic rd rs1 rs2) :=
  fun m => opcodeOf_encodeR (opcodeByte m .faddAtomic) rd rs1 rs2

theorem EncodedOpcode.fadd (rd rs1 rs2 : Reg) : EncodedOpcode.Statement (.fadd rd rs1 rs2) :=
  fun m => opcodeOf_encodeR (opcodeByte m .fadd) rd rs1 rs2

theorem EncodedOpcode.fsub (rd rs1 rs2 : Reg) : EncodedOpcode.Statement (.fsub rd rs1 rs2) :=
  fun m => opcodeOf_encodeR (opcodeByte m .fsub) rd rs1 rs2

theorem EncodedOpcode.fmul (rd rs1 rs2 : Reg) : EncodedOpcode.Statement (.fmul rd rs1 rs2) :=
  fun m => opcodeOf_encodeR (opcodeByte m .fmul) rd rs1 rs2

theorem EncodedOpcode.fdiv (rd rs1 rs2 : Reg) : EncodedOpcode.Statement (.fdiv rd rs1 rs2) :=
  fun m => opcodeOf_encodeR (opcodeByte m .fdiv) rd rs1 rs2

theorem EncodedOpcode.fcmp (rs1 rs2 : Reg) : EncodedOpcode.Statement (.fcmp rs1 rs2) :=
  fun m => opcodeOf_encodeR (opcodeByte m .fcmp) 0 rs1 rs2

theorem EncodedOpcode.fcvt (rd rs1 : Reg) : EncodedOpcode.Statement (.fcvt rd rs1) :=
  fun m => opcodeOf_encodeR (opcodeByte m .fcvt) rd rs1 0

theorem EncodedOpcode.icvt (rd rs1 : Reg) : EncodedOpcode.Statement (.icvt rd rs1) :=
  fun m => opcodeOf_encodeR (opcodeByte m .icvt) rd rs1 0

theorem EncodedOpcode.fmov (rd rs1 : Reg) : EncodedOpcode.Statement (.fmov rd rs1) :=
  fun m => opcodeOf_encodeR (opcodeByte m .fmov) rd rs1 0

theorem EncodedOpcode.vadd (rd rs1 rs2 : Reg) : EncodedOpcode.Statement (.vadd rd rs1 rs2) :=
  fun m => opcodeOf_encodeR (opcodeByte m .vadd) rd rs1 rs2

theorem EncodedOpcode.vsub (rd rs1 rs2 : Reg) : EncodedOpcode.Statement (.vsub rd rs1 rs2) :=
  fun m => opcodeOf_encodeR (opcodeByte m .vsub) rd rs1 rs2

theorem EncodedOpcode.vmul (rd rs1 rs2 : Reg) : EncodedOpcode.Statement (.vmul rd rs1 rs2) :=
  fun m => opcodeOf_encodeR (opcodeByte m .vmul) rd rs1 rs2

theorem EncodedOpcode.vdot (rd rs1 rs2 : Reg) : EncodedOpcode.Statement (.vdot rd rs1 rs2) :=
  fun m => opcodeOf_encodeR (opcodeByte m .vdot) rd rs1 rs2

end Sys2Proof.Laws
end

