-- ==== Sys2Proof/Machine/Text.lean ====
section
/-! DEFINITION. Assembler syntax and disassembly (30_encoding.md R164 to R166). "No rule of the model depends on this text"
(R166): nothing else of the machine uses this file. Text is a list of characters, made a string at the ports. -/

namespace Sys2Proof.Machine

/-- The mnemonic of an operation as R160 spells it. -/
def mnemonic : Op → List Char
  | .add => ['A', 'D', 'D']
  | .sub => ['S', 'U', 'B']
  | .mul => ['M', 'U', 'L']
  | .div => ['D', 'I', 'V']
  | .mod => ['M', 'O', 'D']
  | .and => ['A', 'N', 'D']
  | .or => ['O', 'R']
  | .xor => ['X', 'O', 'R']
  | .cmp => ['C', 'M', 'P']
  | .test => ['T', 'E', 'S', 'T']
  | .slt => ['S', 'L', 'T']
  | .sle => ['S', 'L', 'E']
  | .seq => ['S', 'E', 'Q']
  | .sne => ['S', 'N', 'E']
  | .loadi => ['L', 'O', 'A', 'D', 'I']
  | .move => ['M', 'O', 'V', 'E']
  | .jmp => ['J', 'M', 'P']
  | .jz => ['J', 'Z']
  | .jnz => ['J', 'N', 'Z']
  | .call => ['C', 'A', 'L', 'L']
  | .ret => ['R', 'E', 'T']
  | .syscall => ['S', 'Y', 'S', 'C', 'A', 'L', 'L']
  | .halt => ['H', 'A', 'L', 'T']
  | .xchg => ['X', 'C', 'H', 'G']
  | .cas => ['C', 'A', 'S']
  | .faddAtomic => ['F', 'A', 'D', 'D', '_', 'A', 'T', 'O', 'M', 'I', 'C']
  | .fadd => ['F', 'A', 'D', 'D']
  | .fsub => ['F', 'S', 'U', 'B']
  | .fmul => ['F', 'M', 'U', 'L']
  | .fdiv => ['F', 'D', 'I', 'V']
  | .fcmp => ['F', 'C', 'M', 'P']
  | .fcvt => ['F', 'C', 'V', 'T']
  | .icvt => ['I', 'C', 'V', 'T']
  | .fmov => ['F', 'M', 'O', 'V']
  | .vadd => ['V', 'A', 'D', 'D']
  | .vsub => ['V', 'S', 'U', 'B']
  | .vmul => ['V', 'M', 'U', 'L']
  | .vdot => ['V', 'D', 'O', 'T']

/-- One operand as the assembler writes it: a register or a number (R164). -/
inductive AsmOperand where
  | reg (r : Reg)
  | num (v : Int)
  deriving DecidableEq, Repr

/-- The operands of an instruction in the order of their text, destination first (R160, R164). -/
def operandsOf : Instr → List AsmOperand
  | .add rd rs1 rs2 => [.reg rd, .reg rs1, .reg rs2]
  | .sub rd rs1 rs2 => [.reg rd, .reg rs1, .reg rs2]
  | .mul rd rs1 rs2 => [.reg rd, .reg rs1, .reg rs2]
  | .div rd rs1 rs2 => [.reg rd, .reg rs1, .reg rs2]
  | .mod rd rs1 rs2 => [.reg rd, .reg rs1, .reg rs2]
  | .and rd rs1 rs2 => [.reg rd, .reg rs1, .reg rs2]
  | .or rd rs1 rs2 => [.reg rd, .reg rs1, .reg rs2]
  | .xor rd rs1 rs2 => [.reg rd, .reg rs1, .reg rs2]
  | .cmp rs1 rs2 => [.reg rs1, .reg rs2]
  | .test rs1 rs2 => [.reg rs1, .reg rs2]
  | .slt rd rs1 rs2 => [.reg rd, .reg rs1, .reg rs2]
  | .sle rd rs1 rs2 => [.reg rd, .reg rs1, .reg rs2]
  | .seq rd rs1 rs2 => [.reg rd, .reg rs1, .reg rs2]
  | .sne rd rs1 rs2 => [.reg rd, .reg rs1, .reg rs2]
  | .loadi rd imm => [.reg rd, .num imm.toInt]
  | .move rd rs1 => [.reg rd, .reg rs1]
  | .jmp target => [.num target.toInt]
  | .jz target => [.num target.toInt]
  | .jnz target => [.num target.toInt]
  | .call target => [.num target.toInt]
  | .ret => []
  | .syscall => []
  | .halt => []
  | .xchg rd rs1 rs2 => [.reg rd, .reg rs1, .reg rs2]
  | .cas rd rs1 rs2 => [.reg rd, .reg rs1, .reg rs2]
  | .faddAtomic rd rs1 rs2 => [.reg rd, .reg rs1, .reg rs2]
  | .fadd rd rs1 rs2 => [.reg rd, .reg rs1, .reg rs2]
  | .fsub rd rs1 rs2 => [.reg rd, .reg rs1, .reg rs2]
  | .fmul rd rs1 rs2 => [.reg rd, .reg rs1, .reg rs2]
  | .fdiv rd rs1 rs2 => [.reg rd, .reg rs1, .reg rs2]
  | .fcmp rs1 rs2 => [.reg rs1, .reg rs2]
  | .fcvt rd rs1 => [.reg rd, .reg rs1]
  | .icvt rd rs1 => [.reg rd, .reg rs1]
  | .fmov rd rs1 => [.reg rd, .reg rs1]
  | .vadd rd rs1 rs2 => [.reg rd, .reg rs1, .reg rs2]
  | .vsub rd rs1 rs2 => [.reg rd, .reg rs1, .reg rs2]
  | .vmul rd rs1 rs2 => [.reg rd, .reg rs1, .reg rs2]
  | .vdot rd rs1 rs2 => [.reg rd, .reg rs1, .reg rs2]

/-! ### Disassembly (R166) -/

/-- A decimal or hexadecimal digit, lower case. -/
def digitChar (n : Nat) : Char := Nat.digitChar n

/-- The decimal digits of `n`, most significant first; `fuel` bounds their number. -/
def decimalDigits : Nat → Nat → List Char
  | 0, _ => []
  | fuel + 1, n => if n < 10 then [digitChar n] else decimalDigits fuel (n / 10) ++ [digitChar (n % 10)]

/-- A natural number below 2^32 in decimal. -/
def decimal (n : Nat) : List Char := decimalDigits 10 n

/-- A signed number in decimal (R166). -/
def signedDecimal (v : Int) : List Char :=
  if v < 0 then '-' :: decimal v.natAbs else decimal v.natAbs

/-- The 8 lowercase hex digits of a word (R166). -/
def hex8 (w : Word) : List Char :=
  [7, 6, 5, 4, 3, 2, 1, 0].map fun k => digitChar ((w.extractLsb' (4 * k) 4).toNat)

/-- The text of one operand: `rN`, or a signed decimal number (R166). -/
def operandText : AsmOperand → List Char
  | .reg r => 'r' :: decimal r.val
  | .num v => signedDecimal v

/-- Operands separated by a comma and a space. -/
def commaSeparated : List AsmOperand → List Char
  | [] => []
  | [o] => operandText o
  | o :: p :: rest => operandText o ++ ',' :: ' ' :: commaSeparated (p :: rest)

/-- The text of an instruction: the mnemonic and then the used operands (R166). -/
def instrText (i : Instr) : List Char :=
  match operandsOf i with
  | [] => mnemonic i.op
  | o :: rest => mnemonic i.op ++ ' ' :: commaSeparated (o :: rest)

/-- `disassemble(word)` as characters, total over all words (R166). -/
def disassembleChars (m : OpcodeMap) (w : Word) : List Char :=
  match decodeWord m w with
  | .ok i => instrText i
  | .error _ => ['.', 'w', 'o', 'r', 'd', ' ', '0', 'x'] ++ hex8 w

/-- `disassemble(word)` (R166). -/
def disassemble (m : OpcodeMap) (w : Word) : String := String.ofList (disassembleChars m w)

/-! ### Assembly (R164) -/

/-- White space inside a statement. -/
def isBlank (c : Char) : Bool := c == ' ' || c == '\t' || c == '\r'

/-- Text without its leading and trailing blanks. -/
def trimBlanks (cs : List Char) : List Char :=
  ((cs.dropWhile isBlank).reverse.dropWhile isBlank).reverse

/-- A letter in upper case; mnemonics are case-insensitive (R164). -/
def upper (c : Char) : Char := if 'a'.val ≤ c.val ∧ c.val ≤ 'z'.val then Char.ofNat (c.toNat - 32) else c

/-- The value of a digit in a base up to 16. -/
def digitValue (base : Nat) (c : Char) : Option Nat :=
  let u := (upper c).toNat
  let v := if 48 ≤ u ∧ u ≤ 57 then some (u - 48) else if 65 ≤ u ∧ u ≤ 70 then some (u - 55) else none
  v.filter fun n => decide (n < base)

/-- The digits of `cs` read on from `acc`. -/
def readDigits (base : Nat) : Nat → List Char → Option Nat
  | acc, [] => some acc
  | acc, c :: cs =>
    match digitValue base c with
    | some d => readDigits base (acc * base + d) cs
    | none => none

/-- A decimal or `0x` hex number with at least one digit (R164). -/
def readNatural : List Char → Option Nat
  | [] => none
  | '0' :: 'x' :: c :: cs => readDigits 16 0 (c :: cs)
  | c :: cs => readDigits 10 0 (c :: cs)

/-- A number with an optional sign (R164). -/
def readNumber : List Char → Option Int
  | '-' :: cs => (readNatural cs).map fun n => -(n : Int)
  | cs => (readNatural cs).map fun n => (n : Int)

/-- A register `r0`..`r15` (R164). -/
def readRegister : List Char → Option Reg
  | 'r' :: c :: cs =>
    match readDigits 10 0 (c :: cs) with
    | some n => if n < 16 ∧ (c = '0' → cs = []) then some (Fin.ofNat 16 n) else none
    | none => none
  | _ => none

/-- One operand. -/
def readOperand (cs : List Char) : Option AsmOperand :=
  match readRegister cs with
  | some r => some (.reg r)
  | none => (readNumber cs).map .num

/-- The parts of a text between the separators that `sep` names, first to last. -/
def splitAt (sep : Char → Bool) : List Char → List (List Char)
  | [] => [[]]
  | c :: cs =>
    if sep c then [] :: splitAt sep cs
    else
      match splitAt sep cs with
      | [] => [[c]]
      | part :: parts => (c :: part) :: parts

/-- Every operand of a list read, or none where one is not an operand. -/
def readOperands : List (List Char) → Option (List AsmOperand)
  | [] => some []
  | p :: ps =>
    match readOperand (trimBlanks p), readOperands ps with
    | some o, some os => some (o :: os)
    | _, _ => none

/-- The operand list of a statement; an empty text has no operand. -/
def readOperandList (cs : List Char) : Option (List AsmOperand) :=
  if trimBlanks cs = [] then some [] else readOperands (splitAt (· == ',') cs)

/-- The instruction of a mnemonic and its operands, by the syntax table of R164: an immediate outside its range is rejected
and not cut, and so is any other operand list. DESIGN CHOICE: R164 says what the operand of a jump means under
J_TARGET_MODE = absolute only; here it is the immediate itself in either mode (log entry 19). -/
def assembleOperands : Op → List AsmOperand → Option Instr
  | .add, [.reg rd, .reg rs1, .reg rs2] => some (.add rd rs1 rs2)
  | .sub, [.reg rd, .reg rs1, .reg rs2] => some (.sub rd rs1 rs2)
  | .mul, [.reg rd, .reg rs1, .reg rs2] => some (.mul rd rs1 rs2)
  | .div, [.reg rd, .reg rs1, .reg rs2] => some (.div rd rs1 rs2)
  | .mod, [.reg rd, .reg rs1, .reg rs2] => some (.mod rd rs1 rs2)
  | .and, [.reg rd, .reg rs1, .reg rs2] => some (.and rd rs1 rs2)
  | .or, [.reg rd, .reg rs1, .reg rs2] => some (.or rd rs1 rs2)
  | .xor, [.reg rd, .reg rs1, .reg rs2] => some (.xor rd rs1 rs2)
  | .cmp, [.reg rs1, .reg rs2] => some (.cmp rs1 rs2)
  | .test, [.reg rs1, .reg rs2] => some (.test rs1 rs2)
  | .slt, [.reg rd, .reg rs1, .reg rs2] => some (.slt rd rs1 rs2)
  | .sle, [.reg rd, .reg rs1, .reg rs2] => some (.sle rd rs1 rs2)
  | .seq, [.reg rd, .reg rs1, .reg rs2] => some (.seq rd rs1 rs2)
  | .sne, [.reg rd, .reg rs1, .reg rs2] => some (.sne rd rs1 rs2)
  | .loadi, [.reg rd, .num imm] => if -32768 ≤ imm ∧ imm ≤ 32767 then some (.loadi rd (BitVec.ofInt 32 imm)) else none
  | .move, [.reg rd, .reg rs1] => some (.move rd rs1)
  | .jmp, [.num target] => if -8388608 ≤ target ∧ target ≤ 8388607 then some (.jmp (BitVec.ofInt 32 target)) else none
  | .jz, [.num target] => if -8388608 ≤ target ∧ target ≤ 8388607 then some (.jz (BitVec.ofInt 32 target)) else none
  | .jnz, [.num target] => if -8388608 ≤ target ∧ target ≤ 8388607 then some (.jnz (BitVec.ofInt 32 target)) else none
  | .call, [.num target] => if -8388608 ≤ target ∧ target ≤ 8388607 then some (.call (BitVec.ofInt 32 target)) else none
  | .ret, [] => some .ret
  | .syscall, [] => some .syscall
  | .halt, [] => some .halt
  | .xchg, [.reg rd, .reg rs1, .reg rs2] => some (.xchg rd rs1 rs2)
  | .cas, [.reg rd, .reg rs1, .reg rs2] => some (.cas rd rs1 rs2)
  | .faddAtomic, [.reg rd, .reg rs1, .reg rs2] => some (.faddAtomic rd rs1 rs2)
  | .fadd, [.reg rd, .reg rs1, .reg rs2] => some (.fadd rd rs1 rs2)
  | .fsub, [.reg rd, .reg rs1, .reg rs2] => some (.fsub rd rs1 rs2)
  | .fmul, [.reg rd, .reg rs1, .reg rs2] => some (.fmul rd rs1 rs2)
  | .fdiv, [.reg rd, .reg rs1, .reg rs2] => some (.fdiv rd rs1 rs2)
  | .fcmp, [.reg rs1, .reg rs2] => some (.fcmp rs1 rs2)
  | .fcvt, [.reg rd, .reg rs1] => some (.fcvt rd rs1)
  | .icvt, [.reg rd, .reg rs1] => some (.icvt rd rs1)
  | .fmov, [.reg rd, .reg rs1] => some (.fmov rd rs1)
  | .vadd, [.reg rd, .reg rs1, .reg rs2] => some (.vadd rd rs1 rs2)
  | .vsub, [.reg rd, .reg rs1, .reg rs2] => some (.vsub rd rs1 rs2)
  | .vmul, [.reg rd, .reg rs1, .reg rs2] => some (.vmul rd rs1 rs2)
  | .vdot, [.reg rd, .reg rs1, .reg rs2] => some (.vdot rd rs1 rs2)
  | _, _ => none

/-- The operation a mnemonic names, in either case (R164). -/
def readMnemonic (cs : List Char) : Option Op :=
  Op.all.find? fun op => mnemonic op == cs.map upper

/-- One statement: a mnemonic and then operands (R164). -/
def assembleStatement (cs : List Char) : Option Instr :=
  let t := trimBlanks cs
  match readMnemonic (t.takeWhile fun c => !isBlank c), readOperandList (t.dropWhile fun c => !isBlank c) with
  | some op, some os => assembleOperands op os
  | _, _ => none

/-- Every statement of a program assembled; an empty statement is skipped. -/
def assembleAll : List (List Char) → Option (List Instr)
  | [] => some []
  | p :: ps =>
    if trimBlanks p = [] then assembleAll ps
    else
      match assembleStatement p, assembleAll ps with
      | some i, some is => some (i :: is)
      | _, _ => none

/-- A program's statements, separated by `;` or by the end of a line (R164). -/
def assembleChars (cs : List Char) : Option (List Instr) :=
  assembleAll (splitAt (fun c => c == ';' || c == '\n') cs)

/-- The words of an assembly program under an opcode map (R164). -/
def assemble (m : OpcodeMap) (text : String) : Option (List Word) :=
  (assembleChars text.toList).map fun is => is.map (encode m)

end Sys2Proof.Machine
end

