-- ==== Sys2Proof/Tests/Slice0.lean ====
section
/-! SUPPORT. The model's own tests: decoding of words written out from the encoding tables, refusals of ill-formed terms, one
step or less of each instruction against the vectors of 95_test_vectors.md, and for each statement with hypotheses a state
and operands that meet them. -/

namespace Sys2Proof.Tests

open Sys2Proof Sys2Proof.Machine

set_option Elab.async false

/-! ### Decoding: opcode [31:24], rd [19:16], rs1 [11:8], rs2 [3:0]; imm16 [15:0]; imm24 [23:0] (R151 to R153, R160) -/

theorem test_decode_add : decodeWord defaultOpcodeMap 0b00000001_0000_0011_0000_0001_0000_0010 = .ok (.add 3 1 2) := by decide +kernel
theorem test_decode_sub : decodeWord defaultOpcodeMap 0b00000010_0000_1111_0000_0000_0000_1000 = .ok (.sub 15 0 8) := by decide +kernel
theorem test_decode_mul : decodeWord defaultOpcodeMap 0b00000011_0000_1000_0000_1111_0000_0001 = .ok (.mul 8 15 1) := by decide +kernel
theorem test_decode_div : decodeWord defaultOpcodeMap 0b00000100_0000_0001_0000_0010_0000_0100 = .ok (.div 1 2 4) := by decide +kernel
theorem test_decode_mod : decodeWord defaultOpcodeMap 0b00000101_0000_1010_0000_0101_0000_1001 = .ok (.mod 10 5 9) := by decide +kernel
theorem test_decode_and : decodeWord defaultOpcodeMap 0b00000110_0000_0011_0000_0001_0000_0010 = .ok (.and 3 1 2) := by decide +kernel
theorem test_decode_or : decodeWord defaultOpcodeMap 0b00000111_0000_1111_0000_0000_0000_1000 = .ok (.or 15 0 8) := by decide +kernel
theorem test_decode_xor : decodeWord defaultOpcodeMap 0b00001000_0000_1000_0000_1111_0000_0001 = .ok (.xor 8 15 1) := by decide +kernel
theorem test_decode_cmp : decodeWord defaultOpcodeMap 0b00001001_0000_0000_0000_0010_0000_0100 = .ok (.cmp 2 4) := by decide +kernel
theorem test_decode_test : decodeWord defaultOpcodeMap 0b00001010_0000_0000_0000_0101_0000_1001 = .ok (.test 5 9) := by decide +kernel
theorem test_decode_slt : decodeWord defaultOpcodeMap 0b00001011_0000_0011_0000_0001_0000_0010 = .ok (.slt 3 1 2) := by decide +kernel
theorem test_decode_sle : decodeWord defaultOpcodeMap 0b00001100_0000_1111_0000_0000_0000_1000 = .ok (.sle 15 0 8) := by decide +kernel
theorem test_decode_seq : decodeWord defaultOpcodeMap 0b00001101_0000_1000_0000_1111_0000_0001 = .ok (.seq 8 15 1) := by decide +kernel
theorem test_decode_sne : decodeWord defaultOpcodeMap 0b00001110_0000_0001_0000_0010_0000_0100 = .ok (.sne 1 2 4) := by decide +kernel
theorem test_decode_loadi : decodeWord defaultOpcodeMap 0b00010000_0000_1011_1000000000000001 = .ok (.loadi 11 0xFFFF8001) := by decide +kernel
theorem test_decode_move : decodeWord defaultOpcodeMap 0b00010001_0000_0011_0000_0001_0000_0000 = .ok (.move 3 1) := by decide +kernel
theorem test_decode_jmp : decodeWord defaultOpcodeMap 0b00100000_011000000000000000000001 = .ok (.jmp 0x00600001) := by decide +kernel
theorem test_decode_jz : decodeWord defaultOpcodeMap 0b00100001_100000000000000000000010 = .ok (.jz 0xFF800002) := by decide +kernel
theorem test_decode_jnz : decodeWord defaultOpcodeMap 0b00100010_011000000000000000000001 = .ok (.jnz 0x00600001) := by decide +kernel
theorem test_decode_call : decodeWord defaultOpcodeMap 0b00100011_100000000000000000000010 = .ok (.call 0xFF800002) := by decide +kernel
theorem test_decode_ret : decodeWord defaultOpcodeMap 0b00100100_0000_0000_0000_0000_0000_0000 = .ok .ret := by decide +kernel
theorem test_decode_syscall : decodeWord defaultOpcodeMap 0b00110000_0000_0000_0000_0000_0000_0000 = .ok .syscall := by decide +kernel
theorem test_decode_halt : decodeWord defaultOpcodeMap 0b00110001_0000_0000_0000_0000_0000_0000 = .ok .halt := by decide +kernel
theorem test_decode_xchg : decodeWord defaultOpcodeMap 0b01000000_0000_0001_0000_0010_0000_0100 = .ok (.xchg 1 2 4) := by decide +kernel
theorem test_decode_cas : decodeWord defaultOpcodeMap 0b01000001_0000_1010_0000_0101_0000_1001 = .ok (.cas 10 5 9) := by decide +kernel
theorem test_decode_faddAtomic : decodeWord defaultOpcodeMap 0b01000010_0000_0011_0000_0001_0000_0010 = .ok (.faddAtomic 3 1 2) := by decide +kernel
theorem test_decode_fadd : decodeWord defaultOpcodeMap 0b01010000_0000_1111_0000_0000_0000_1000 = .ok (.fadd 15 0 8) := by decide +kernel
theorem test_decode_fsub : decodeWord defaultOpcodeMap 0b01010001_0000_1000_0000_1111_0000_0001 = .ok (.fsub 8 15 1) := by decide +kernel
theorem test_decode_fmul : decodeWord defaultOpcodeMap 0b01010010_0000_0001_0000_0010_0000_0100 = .ok (.fmul 1 2 4) := by decide +kernel
theorem test_decode_fdiv : decodeWord defaultOpcodeMap 0b01010011_0000_1010_0000_0101_0000_1001 = .ok (.fdiv 10 5 9) := by decide +kernel
theorem test_decode_fcmp : decodeWord defaultOpcodeMap 0b01010100_0000_0000_0000_0001_0000_0010 = .ok (.fcmp 1 2) := by decide +kernel
theorem test_decode_fcvt : decodeWord defaultOpcodeMap 0b01010101_0000_1111_0000_0000_0000_0000 = .ok (.fcvt 15 0) := by decide +kernel
theorem test_decode_icvt : decodeWord defaultOpcodeMap 0b01010110_0000_1000_0000_1111_0000_0000 = .ok (.icvt 8 15) := by decide +kernel
theorem test_decode_fmov : decodeWord defaultOpcodeMap 0b01010111_0000_0001_0000_0010_0000_0000 = .ok (.fmov 1 2) := by decide +kernel
theorem test_decode_vadd : decodeWord defaultOpcodeMap 0b01100000_0000_1010_0000_0101_0000_1001 = .ok (.vadd 10 5 9) := by decide +kernel
theorem test_decode_vsub : decodeWord defaultOpcodeMap 0b01100001_0000_0011_0000_0001_0000_0010 = .ok (.vsub 3 1 2) := by decide +kernel
theorem test_decode_vmul : decodeWord defaultOpcodeMap 0b01100010_0000_1111_0000_0000_0000_1000 = .ok (.vmul 15 0 8) := by decide +kernel
theorem test_decode_vdot : decodeWord defaultOpcodeMap 0b01100011_0000_1000_0000_1111_0000_0001 = .ok (.vdot 8 15 1) := by decide +kernel

/-- E7: the unused bits are ignored. -/
theorem test_decode_ignores_unused_bits :
    decodeWord defaultOpcodeMap 0x01F3A1B2 = .ok (.add 3 1 2) ∧
    decodeWord defaultOpcodeMap 0x24FFFFFF = .ok .ret ∧
    decodeWord defaultOpcodeMap 0x11040F0F = .ok (.move 4 15) := by decide +kernel

/-- E11: unassigned opcode bytes. -/
theorem test_decode_rejects_unassigned :
    ([0x00, 0x0F, 0x12, 0x25, 0x32, 0x43, 0x58, 0x64, 0xFF].all fun b : Byte =>
      (lookupOp defaultOpcodeMap b).isNone) = true ∧
    decodeWord defaultOpcodeMap 0xFF000000 = .error (.unknownOpcode 0xFF000000) ∧
    decodeBytes defaultOpcodeMap [0x02, 0x01, 0x03] = .error .truncated := by decide +kernel

/-- E1, E3 to E6, E8: the encoders. -/
theorem test_encoders :
    encodeR 0x01 3 1 2 = 0x01030102 ∧ encodeI 0x10 1 (-1) = 0x1001FFFF ∧ encodeI 0x10 1 32767 = 0x10017FFF ∧
    encodeI 0x10 1 (-32768) = 0x10018000 ∧ encodeJ 0x20 (-4) = 0x20FFFFFC ∧ encodeJ 0x20 8388607 = 0x207FFFFF ∧
    encodeR 0x01 17 1 2 = 0x01010102 := by decide +kernel

/-- The bytes of a table word are little-endian (R150). -/
theorem test_decode_table_word :
    decodeTableWord 32 0x01030102 = some (.add 3 1 2) ∧ decodeTableWord 32 0 = none := by decide +kernel

/-- E9 and E10, and a statement of P1. -/
theorem test_text :
    disassemble defaultOpcodeMap 0x01030102 = "ADD r3, r1, r2" ∧
    disassemble defaultOpcodeMap 0xFF000000 = ".word 0xff000000" ∧
    assemble defaultOpcodeMap "LOADI r1,42; LOADI r2,58; ADD r3,r1,r2; HALT"
      = some [0x1001002A, 0x1002003A, 0x01030102, 0x31000000] := by decide +kernel

/-! ### Well-formedness: an ill-formed term for each check -/

theorem test_wf_imm16 :
    (Instr.loadi 1 32767).wf defaultOpcodeMap = true ∧ (Instr.loadi 1 32768).wf defaultOpcodeMap = false ∧
    (Instr.loadi 1 0xFFFF8000).wf defaultOpcodeMap = true ∧ (Instr.loadi 1 0xFFFF7FFF).wf defaultOpcodeMap = false := by
  decide +kernel

theorem test_wf_imm24 :
    (Instr.jmp 8388607).wf defaultOpcodeMap = true ∧ (Instr.jmp 8388608).wf defaultOpcodeMap = false ∧
    (Instr.jz 8388608).wf defaultOpcodeMap = false ∧ (Instr.jnz 8388608).wf defaultOpcodeMap = false ∧
    (Instr.call 0xFF7FFFFF).wf defaultOpcodeMap = false ∧ (Instr.call 0xFF800000).wf defaultOpcodeMap = true := by
  decide +kernel

theorem test_wf_opcode_missing : (Instr.add 3 1 2).wf [(0x02, .sub)] = false := by decide +kernel

theorem test_wf_opcode_map :
    OpcodeMap.wf defaultOpcodeMap = true ∧ OpcodeMap.wf ((0x70, .add) :: defaultOpcodeMap) = false ∧
    OpcodeMap.wf (defaultOpcodeMap.map fun r => (0x01, r.2)) = false ∧ OpcodeMap.wf defaultOpcodeMap.tail = false := by
  decide +kernel

theorem test_wf_params :
    Params.wf defaultParams = true ∧ Params.wf { defaultParams with mmioBase := 0xBFFF } = false ∧
    Params.wf { defaultParams with heapBase := 0x4002, heapSize := 4 } = false ∧
    Params.wf { defaultParams with mmioBase := 0x5000, mmioSize := 0 } = true ∧
    Params.wf { defaultParams with opcodeMap := [] } = false := by decide +kernel

/-! ### Helpers -/

/-- The state after reset with x[1] and x[2] set and every flag set. -/
def operands (a b : Word) : State :=
  ((State.reset.setReg 1 a).setReg 2 b).setFlags ⟨true, true, true, true⟩

/-- The state of a result; `d` where it stopped. -/
def stateOf (r : Result) (d : State) : State :=
  match r with
  | .next t => t
  | .fault _ => d
  | .refused _ => d

/-- x[3] and the packed flags after an instruction on two operands. -/
def result3 (i : Instr) (a b : Word) : Word × Word :=
  let t := stateOf (exec i (operands a b)) (State.created defaultParams)
  (t.reg 3, packFlags t.flags)

/-- The state after one step that fetches the word `w`. -/
def stepWord (s : State) (w : Nat) : State :=
  stateOf (step (s.withFetchWord 32 w)) (State.created defaultParams)

/-- The signals of a step a vector speaks of: result, pc, sp, instruction count. -/
def signals (s : State) : Option StepResult × Word × Word × Nat :=
  (s.result, s.pc, s.sp, s.instructionCount.toNat)

/-- The state after reset with the cell at 0x4000 holding `v` and x[1] = 0x4000 (section 2.6). -/
def cell (v : Word) : State := (State.reset.setReg 1 0x4000).storeWord 0x4000 v

/-- The state after reset with some vectors set up and the global enable on. -/
def withVector (i : Irq) (v : IrqVector) (s : State) : State :=
  { s with irqGlobalEnable := true, vec := s.vec.set i v }

/-! ### Integer ALU (2.2); flags packed as Z 1, C 2, N 4, V 8 -/

/-- A3, A5. -/
theorem test_add : result3 (.add 3 1 2) 0x7FFFFFFF 1 = (0x80000000, 0xC) ∧
    result3 (.add 3 1 2) 0x80000000 0x80000000 = (0, 0xB) := by decide +kernel

/-- A44: the source is the destination. -/
theorem test_add_alias :
    (stateOf (exec (.add 1 1 1) (operands 0x40000000 0)) State.reset).reg 1 = 0x80000000 := by decide +kernel

/-- A11, A9. -/
theorem test_sub : result3 (.sub 3 1 2) 0x7FFFFFFF 0xFFFFFFFF = (0x80000000, 0xE) ∧
    result3 (.sub 3 1 2) 0 1 = (0xFFFFFFFF, 0x6) := by decide +kernel

/-- A16, A20. -/
theorem test_mul : result3 (.mul 3 1 2) 0x10000 0x10000 = (0, 0x3) ∧
    result3 (.mul 3 1 2) 0x12345 0x6789 = (0x75CCA2ED, 0) := by decide +kernel

/-- A21, A23. -/
theorem test_div : result3 (.div 3 1 2) 100 7 = (14, 0) ∧
    result3 (.div 3 1 2) 0x80000000 0xFFFFFFFF = (0, 1) := by decide +kernel

/-- A28 and P2: the destination is zeroed, the step returns Fault, flags, pc and the count stand. -/
theorem test_div_by_zero :
    let t := stepWord ((operands 100 0).setReg 3 5) 0x04030102
    t.reg 3 = 0 ∧ signals t = (some .fault, 0, 0x10000, 0) ∧ t.flags = ⟨true, true, true, true⟩ ∧
    t.faultCause = 2 ∧ t.faultInfo = ⟨9, 0, 0, 4, 0x04030102⟩ ∧ t.halted = false := by decide +kernel

/-- A25, A26. -/
theorem test_mod : result3 (.mod 3 1 2) 100 7 = (2, 0) ∧
    result3 (.mod 3 1 2) 0x80000000 0xFFFFFFFF = (0x80000000, 4) := by decide +kernel

/-- A29. -/
theorem test_mod_by_zero :
    let t := stepWord ((operands 100 0).setReg 3 5) 0x05030102
    t.reg 3 = 0 ∧ signals t = (some .fault, 0, 0x10000, 0) ∧ t.faultInfo = ⟨10, 0, 0, 4, 0x05030102⟩ := by
  decide +kernel

/-- A30, A33. -/
theorem test_and : result3 (.and 3 1 2) 0xF0F0 0x0FF0 = (0x00F0, 0) ∧
    result3 (.and 3 1 2) 0x80000000 0x80000000 = (0x80000000, 4) := by decide +kernel

/-- A31. -/
theorem test_or : result3 (.or 3 1 2) 0xF0F0 0x0FF0 = (0xFFF0, 0) := by decide +kernel

/-- A32, A34. -/
theorem test_xor : result3 (.xor 3 1 2) 0xF0F0 0x0FF0 = (0xFF00, 0) ∧
    result3 (.xor 3 1 2) 0xFFFFFFFF 0xFFFFFFFF = (0, 1) := by decide +kernel

/-- A35, A36. -/
theorem test_cmp : result3 (.cmp 1 2) 5 5 = (0, 1) ∧ result3 (.cmp 1 2) 0 1 = (0, 6) := by decide +kernel

/-- A37, A38. -/
theorem test_test : result3 (.test 1 2) 0xF0 0x0F = (0, 1) ∧
    result3 (.test 1 2) 0x80000000 0xFFFFFFFF = (0, 4) := by decide +kernel

/-- A39, A40, A42; the flags stand. -/
theorem test_slt : result3 (.slt 3 1 2) 0xFFFFFFFF 1 = (1, 0xF) ∧ result3 (.slt 3 1 2) 1 0xFFFFFFFF = (0, 0xF) ∧
    result3 (.slt 3 1 2) 5 5 = (0, 0xF) := by decide +kernel

/-- A40, A42. -/
theorem test_sle : result3 (.sle 3 1 2) 1 0xFFFFFFFF = (0, 0xF) ∧ result3 (.sle 3 1 2) 5 5 = (1, 0xF) := by
  decide +kernel

/-- A42, A43. -/
theorem test_seq : result3 (.seq 3 1 2) 5 5 = (1, 0xF) ∧ result3 (.seq 3 1 2) 0 0x80000000 = (0, 0xF) := by
  decide +kernel

/-- A42, A43. -/
theorem test_sne : result3 (.sne 3 1 2) 5 5 = (0, 0xF) ∧ result3 (.sne 3 1 2) 0 0x80000000 = (1, 0xF) := by
  decide +kernel

/-! ### Data movement (2.3) -/

/-- L3, L4. -/
theorem test_loadi : (stepWord State.reset 0x10018000).reg 1 = 0xFFFF8000 ∧
    (stepWord State.reset 0x10F17FFF).reg 1 = 0x00007FFF ∧
    signals (stepWord State.reset 0x1001002A) = (some .continued, 4, 0x10000, 1) := by decide +kernel

/-- L5. -/
theorem test_move : (stepWord (operands 0x12345678 0) 0x11040100).reg 4 = 0x12345678 := by decide +kernel

/-! ### Control transfer (2.4) -/

/-- K1, K2. -/
theorem test_jmp : (stepWord (setPc 0x10 State.reset) 0x20000100).pc = 0x100 ∧
    (stepWord (setPc 0x10 State.reset) 0x20000010).pc = 0x10 := by decide +kernel

/-- K1's word under the other value of J_TARGET_MODE (R260): the target is the jump's own address plus the immediate. -/
theorem test_jmp_relative :
    (stepWord (setPc 0x10 { State.reset with params := { defaultParams with jTargetMode := .pcRelative } })
      0x20000100).pc = 0x110 := by decide +kernel

/-- K3, K4. -/
theorem test_jz :
    (stepWord (setFlagsPort 1 (setPc 0x18 State.reset)) 0x21000010).pc = 0x10 ∧
    (stepWord (setPc 0x18 State.reset) 0x21000010).pc = 0x1C := by decide +kernel

/-- K5. -/
theorem test_jnz :
    (stepWord (setPc 0x18 State.reset) 0x22000010).pc = 0x10 ∧
    (stepWord (setFlagsPort 1 (setPc 0x18 State.reset)) 0x22000010).pc = 0x1C := by decide +kernel

/-- K6. -/
theorem test_call :
    let t := stepWord (setPc 0x10 State.reset) 0x23000024
    t.loadWord 0xFFFC = 0x14 ∧ t.sp = 0xFFFC ∧ t.pc = 0x24 ∧ t.byte 0xFFFC = 0x14 := by decide +kernel

/-- K9, K10. -/
theorem test_call_fault :
    (stepWord (setSpPort 0xE000 State.reset) 0x23000024).faultInfo = ⟨5, 0xDFFC, 4, 2, 0x23000024⟩ ∧
    (stepWord (setSpPort 0 State.reset) 0x23000024).faultInfo = ⟨5, 0xFFFFFFFC, 4, 1, 0x23000024⟩ := by decide +kernel

/-- K7. -/
theorem test_ret :
    let t := stepWord ((setSpPort 0xFFFC State.reset).storeWord 0xFFFC 0x14) 0x24000000
    t.pc = 0x14 ∧ t.sp = 0x10000 := by decide +kernel

/-- K8. -/
theorem test_ret_fault :
    let t := stepWord State.reset 0x24000000
    t.faultInfo = ⟨6, 0x10000, 4, 1, 0x24000000⟩ ∧ signals t = (some .fault, 0, 0x10000, 0) := by decide +kernel

/-- K13. -/
theorem test_halt :
    let t := stepWord (setPc 0xC State.reset) 0x31000000
    t.halted = true ∧ signals t = (some .halted, 0x10, 0x10000, 1) := by decide +kernel

/-! ### SYSCALL (2.5): the numbers are open, so the effect of each name is tested -/

/-- Y2, Y4. -/
theorem test_syscall_exit_sleep :
    (syscallEffect (some .exit) (operands 7 0)).exitCode = 7 ∧ (syscallEffect (some .exit) (operands 7 0)).halted = true ∧
    (syscallEffect (some .sleep) { operands 10 0 with ticks := 5, cycleCount := 3 }).ticks = 15 ∧
    (syscallEffect (some .sleep) { operands 10 0 with ticks := 5, cycleCount := 3 }).cycleCount = 13 := by decide +kernel

/-- Y5, Y8. -/
theorem test_syscall_alloc :
    (syscallEffect (some .alloc) (operands 5 0)).reg 0 = 0x4000 ∧
    (syscallEffect (some .alloc) (operands 5 0)).heapUsed = 8 ∧
    (syscallEffect (some .alloc) { operands 8 0 with heapUsed := 0x7FFC }).reg 0 = 0 ∧
    (syscallEffect (some .alloc) { operands 8 0 with heapUsed := 0x7FFC }).heapUsed = 0x7FFC := by decide +kernel

/-! ### Atomics (2.6) -/

/-- T1. -/
theorem test_xchg :
    let t := stepWord ((cell 0).setReg 2 7) 0x40030102
    t.reg 3 = 0 ∧ t.loadWord 0x4000 = 7 ∧ t.byte 0x4000 = 7 := by decide +kernel

/-- T6, T7. -/
theorem test_xchg_fault :
    (stepWord (operands 0 0) 0x40030102).faultInfo = ⟨4, 0, 4, 3, 0x40030102⟩ ∧
    (stepWord (operands 0xBFFE 0) 0x40030102).faultInfo = ⟨4, 0xBFFE, 4, 2, 0x40030102⟩ := by decide +kernel

/-- T3, T4. -/
theorem test_cas :
    (stepWord (((cell 12).setReg 6 12).setReg 7 99) 0x41060107).loadWord 0x4000 = 99 ∧
    (stepWord (((cell 12).setReg 6 12).setReg 7 99) 0x41060107).reg 6 = 1 ∧
    (stepWord (((cell 99).setReg 6 1).setReg 7 98) 0x41060107).loadWord 0x4000 = 99 ∧
    (stepWord (((cell 99).setReg 6 1).setReg 7 98) 0x41060107).reg 6 = 0 := by decide +kernel

/-- T8. -/
theorem test_cas_fault :
    (stepWord (operands 0xFFFD 0) 0x41060107).faultInfo = ⟨4, 0xFFFD, 4, 1, 0x41060107⟩ := by decide +kernel

/-- T5. -/
theorem test_fadd_atomic :
    let t := stepWord ((cell 0xFFFFFFFF).setReg 2 1) 0x42030102
    t.reg 3 = 0xFFFFFFFF ∧ t.loadWord 0x4000 = 0 ∧ packFlags t.flags = 0 := by decide +kernel

/-! ### Floating point (2.7) -/

/-- F5, F10. -/
theorem test_fadd : result3 (.fadd 3 1 2) 0x4B800000 0x3F800000 = (0x4B800000, 0xF) ∧
    result3 (.fadd 3 1 2) 0 0x80000000 = (0, 0xF) := by decide +kernel

/-- F9: some NaN pattern. -/
theorem test_fadd_nan : fpAdd 0x7F800000 0xFF800000 = none ∧ isNan (nanPattern 0) = true := by decide +kernel

/-- F2. -/
theorem test_fsub : result3 (.fsub 3 1 2) 0x3F800000 0x40000000 = (0xBF800000, 0xF) := by decide +kernel

/-- F3. -/
theorem test_fmul : result3 (.fmul 3 1 2) 0x40000000 0x40400000 = (0x40C00000, 0xF) := by decide +kernel

/-- F4, F7. -/
theorem test_fdiv : result3 (.fdiv 3 1 2) 0x3F800000 0x40000000 = (0x3F000000, 0xF) ∧
    result3 (.fdiv 3 1 2) 0x3F800000 0x80000000 = (0xFF800000, 0xF) := by decide +kernel

/-- F12 to F14. -/
theorem test_fcmp : result3 (.fcmp 1 2) 0x3F800000 0x40000000 = (0, 4) ∧ result3 (.fcmp 1 2) 0 0x80000000 = (0, 1) ∧
    result3 (.fcmp 1 2) 0x7FC00000 0x7FC00000 = (0, 2) := by decide +kernel

/-- F16, F17. -/
theorem test_fcvt : result3 (.fcvt 3 1) 16777217 0 = (0x4B800000, 0xF) ∧
    result3 (.fcvt 3 1) 0xFFFFFFFF 0 = (0xBF800000, 0xF) := by decide +kernel

/-- F18, F20. -/
theorem test_icvt : result3 (.icvt 3 1) 0xC0700000 0 = (0xFFFFFFFD, 0xF) ∧ intOfFp 0x7F800000 = none := by
  decide +kernel

/-- F21. -/
theorem test_fmov : result3 (.fmov 3 1) 0x7FC00001 0 = (0x7FC00001, 0xF) := by decide +kernel

/-! ### SIMD (2.8) -/

/-- V2. -/
theorem test_vadd : result3 (.vadd 3 1 2) 0x80FF10FF 0x80011001 = (0x00002000, 0xF) := by decide +kernel

/-- V2. -/
theorem test_vsub : result3 (.vsub 3 1 2) 0x80FF10FF 0x80011001 = (0x00FE00FE, 0xF) := by decide +kernel

/-- V1, V2. -/
theorem test_vmul : result3 (.vmul 3 1 2) 0x01020304 0x05060708 = (0x050C1520, 0xF) ∧
    result3 (.vmul 3 1 2) 0x80FF10FF 0x80011001 = (0x00FF00FF, 0xF) := by decide +kernel

/-- V2, V3. -/
theorem test_vdot : result3 (.vdot 3 1 2) 0x80FF10FF 0x80011001 = (0x000042FE, 0xF) ∧
    result3 (.vdot 3 1 2) 0xFFFFFFFF 0xFFFFFFFF = (0x0003F804, 0xF) := by decide +kernel

/-! ### Memory and host ports (2.9) -/

/-- M3, M4, M6, M7, M12. -/
theorem test_memory_ports :
    (writeMemory 0 [1, 2, 3, 4] State.reset).2 = .failed ∧ (writeMemory 0xBFFE [1, 2, 3, 4] State.reset).2 = .failed ∧
    readMemory 0xFFFD 4 State.reset = none ∧ readMemory 0x100 0 State.reset = some [] ∧
    [0x00, 0x40, 0xC0, 0xE0].map (fun p => getPageProtection p State.reset) = [some 0x0D, some 0x0B, some 0, some 0x0B] := by
  decide +kernel

/-- M1, M2, M9. -/
theorem test_memory_write :
    let t := (writeMemory 0x4010 [0x11, 0x22, 0x33, 0x44] State.reset).1
    readMemory 0x4010 4 t = some [0x11, 0x22, 0x33, 0x44] ∧ t.loadWord 0x4010 = 0x44332211 ∧
    (loadProgram [1, 2, 3, 4] 0xC000 State.reset).2 = .failed := by decide +kernel

/-! ### The FSM (2.10) -/

/-- D1, D2. -/
theorem test_fetch_and_decode_faults :
    (stateOf (step State.reset) State.reset).faultInfo = ⟨11, 0, 0, 5, 0⟩ ∧
    (stateOf (step (setPc 0x4000 State.reset)) State.reset).faultInfo = ⟨1, 0x4000, 4, 3, 0⟩ := by decide +kernel

/-- Q1. -/
theorem test_dispatch :
    let t := stepWord (withVector 5 ⟨0x100, true, true⟩ State.reset) 0x10010001
    t.reg 1 = 1 ∧ t.loadWord 0xFFFC = 4 ∧ signals t = (some .continued, 0x100, 0xFFFC, 1) ∧
    t.vec[5] = ⟨0x100, true, false⟩ := by decide +kernel

/-- Q6. -/
theorem test_dispatch_push_fault :
    let t := stepWord (setSpPort 0xE000 (withVector 5 ⟨0x100, true, true⟩ State.reset)) 0x10010001
    t.faultInfo = ⟨7, 0xDFFC, 4, 2, 5⟩ ∧ signals t = (some .fault, 4, 0xE000, 1) ∧ t.vec[5].pending = true := by
  decide +kernel

/-- B1 (its third step), D5, D6. -/
theorem test_pauses :
    signals (stepWord { setPc 8 State.reset with dbgEnabled := true, breakpoints := [8] } 0x04030102)
      = (some .paused, 8, 0x10000, 0) ∧
    (stepWord (requestBreak State.reset) 0x10010001).halted = true ∧
    signals (stepWord (setSingleStep true State.reset) 0x10010001) = (some .paused, 4, 0x10000, 1) := by decide +kernel

/-! ### Witnesses: for each statement with hypotheses, a state and operands that meet them -/

/-- A state whose memory and breakpoints are as the invariant says, with a program word at 0. -/
def running (w : Nat) : State := State.reset.withFetchWord 32 w

/-- DivWritesFloorQuotientOrFaults and ModWritesRemainderOrFaults: both clauses. -/
theorem witness_div_mod : (operands 100 1).reg 2 ≠ 0 ∧ (operands 100 0).reg 2 = 0 := by decide +kernel

/-- LoadiImmediateIsSignedLowHalf: both sides of the sign of the immediate. -/
theorem witness_loadi :
    (0x10017FFF : Word).toNat / 2 ^ 24 = 0x10 ∧ (0x10017FFF : Word).toNat % 2 ^ 16 < 2 ^ 15 ∧
    (0x10F18000 : Word).toNat / 2 ^ 24 = 0x10 ∧ ¬ (0x10F18000 : Word).toNat % 2 ^ 16 < 2 ^ 15 := by decide +kernel

/-- JumpsWriteTargetWhereTaken: both values of Z. -/
theorem witness_jumps : (operands 0 0).flags.z = true ∧ State.reset.flags.z = false := by decide +kernel

/-- CallPushesReturnAddressOrFaults and CallThenRetReturnsToNextInstruction: the highest stack slot, and the two edges. -/
theorem witness_call :
    memWf State.reset.mem ∧ State.reset.check .push (State.reset.sp - 4) 4 = none ∧
    State.reset.check .pop (State.reset.sp - 4) 4 = none ∧
    (setSpPort 0xE003 State.reset).check .push ((setSpPort 0xE003 State.reset).sp - 4) 4 = some .notPresent ∧
    (setSpPort 0 State.reset).check .push ((setSpPort 0 State.reset).sp - 4) 4 = some .range ∧
    (setSpPort 0x3004 State.reset).check .push ((setSpPort 0x3004 State.reset).sp - 4) 4 = some .permission := by
  decide +kernel

/-- RetPopsReturnAddressOrFaults: the highest word, and one byte above it. -/
theorem witness_ret :
    (setSpPort 0xFFFC State.reset).check .pop (setSpPort 0xFFFC State.reset).sp 4 = none ∧
    (setSpPort 0xFFFD State.reset).check .pop (setSpPort 0xFFFD State.reset).sp 4 = some .range := by decide +kernel

/-- HaltRetiresAndReturnsHalted, and the common hypotheses of StepRunsTheDecodedInstruction. -/
theorem witness_halt :
    let s := running 0x31000000
    s.breakRequest = false ∧ s.halted = false ∧ s.atBreakpoint = false ∧ s.check .fetch s.pc 4 = none ∧
    decodeWord s.params.opcodeMap (s.loadWord s.pc) = .ok .halt := by decide +kernel

/-- AllocBumpsHeapByRoundedSize: size 0, a size that fills the heap exactly, and one more. -/
theorem witness_alloc :
    (operands 0 0).reg 1 = 0 ∧ (operands 0x7FFD 0).reg 1 ≠ 0 ∧
    (operands 0x7FFD 0).heapUsed.toNat + 0x8000 ≤ (operands 0x7FFD 0).heapSize.toNat ∧
    (operands 0x8001 0).heapSize.toNat < (operands 0x8001 0).heapUsed.toNat + 0x8004 := by decide +kernel

/-- SuccessiveAllocationsAreDisjoint: the second fills the heap. -/
theorem witness_allocs :
    let t₁ := syscallEffect (some .alloc) (State.reset.setReg 1 5)
    let t₂ := syscallEffect (some .alloc) (t₁.setReg 1 0x7FF8)
    State.reset.heapBase.toNat % 4 = 0 ∧ State.reset.heapUsed.toNat % 4 = 0 ∧
    State.reset.heapBase.toNat + State.reset.heapSize.toNat ≤ 2 ^ 32 ∧ t₁.reg 0 ≠ 0 ∧ t₂.reg 0 ≠ 0 := by decide +kernel

/-- EnvironmentOutcomeStaysInItsView: a byte that an outcome changes, beside a write that does not pass. -/
theorem witness_environment :
    memWf State.reset.mem ∧
    memRead (applyOutcome (.result 7 [] [(0x4000, 5), (0, 9)]) State.reset).mem 0x4000 ≠ memRead State.reset.mem 0x4000 ∧
    (applyOutcome (.result 7 [] [(0x4000, 5), (0, 9)]) State.reset).reg 0 = 0xFFFFFFFF ∧
    (applyOutcome (.result 7 [(0, 4)] [(0x4000, 5)]) State.reset).reg 0 = 7 ∧
    (applyOutcome (.result 7 [(0xBFFD, 4)] []) State.reset).reg 0 = 0xFFFFFFFF ∧
    (applyOutcome (.result 7 [] [(0x4000, 5), (0x4001, 1), (0x4000, 6)]) State.reset).byte 0x4000 = 6 := by decide +kernel

/-- XchgSwapsRegisterAndCellOrFaults and FetchAndAddStoresSumOrFaults: the last word of the heap, and one byte above. -/
theorem witness_rmw :
    memWf (operands 0xBFFC 0).mem ∧ (operands 0xBFFC 0).check .rmw ((operands 0xBFFC 0).reg 1) 4 = none ∧
    (operands 0xBFFD 0).check .rmw ((operands 0xBFFD 0).reg 1) 4 = some .notPresent := by decide +kernel

/-- CasStoresOnlyOnMatchOrFaults: a match and a mismatch; the failed check is `witness_rmw`'s. -/
theorem witness_cas :
    memWf (cell 7).mem ∧ (cell 7).check .rmw ((cell 7).reg 1) 4 = none ∧
    ((cell 7).setReg 6 7).loadWord (((cell 7).setReg 6 7).reg 1) = ((cell 7).setReg 6 7).reg 6 ∧
    (cell 7).loadWord ((cell 7).reg 1) ≠ (cell 7).reg 6 := by decide +kernel

/-- FpArithmeticWritesResultOrSomeNan: each operation with a result and with a NaN result. -/
theorem witness_fp_arithmetic :
    fpAdd 0x3F800000 0x40000000 = some 0x40400000 ∧ fpAdd 0x7F800000 0xFF800000 = none ∧
    fpSub 0x3F800000 0x40000000 = some 0xBF800000 ∧ fpSub 0x7F800000 0x7F800000 = none ∧
    fpMul 0x40000000 0x40400000 = some 0x40C00000 ∧ fpMul 0 0x7F800000 = none ∧
    fpDiv 0x3F800000 0x40000000 = some 0x3F000000 ∧ fpDiv 0 0x80000000 = none := by decide +kernel

/-- FpResultIsNanOnlyWhereInvalid: a value of each shape its cases name. -/
theorem witness_fp_values :
    valueOf 0x7FC00001 = .nan ∧ valueOf 0xFF800000 = .inf true ∧ valueOf 0x7F800000 = .inf false ∧
    valueOf 0x80000000 = .finite true 0 ∧ valueOf 0 = .finite false 0 ∧ valueOf 0x3F800000 = .finite false (2 ^ 149) := by
  decide +kernel

/-- RoundingIsNearestTiesToEven: the overflow threshold, half a unit below it, a tie, and a finite pattern. -/
theorem witness_rounding :
    (2 ^ 25 - 1) * 2 ^ 253 * 1 ≤ 2 * ((2 ^ 25 - 1) * 2 ^ 252) ∧
    2 * ((2 ^ 25 - 1) * 2 ^ 252 - 1) < (2 ^ 25 - 1) * 2 ^ 253 * 1 ∧
    |((2 ^ 25 + 2 : Nat) : Int) - 2 ^ 25 * 1| = |((2 ^ 25 + 2 : Nat) : Int) - (2 ^ 25 + 4) * 1| ∧
    valueOf 0x4B800000 = .finite false (2 ^ 24 * 2 ^ 149) := by decide +kernel

/-- FpAddRoundsExactSumAndCommutes: a zero, a positive and a negative sum and difference, a zero and a nonzero product, each
divisor case, and an infinity on either side and on both. -/
theorem witness_fp_add :
    (signed true 0 + signed false 0 = 0 ∧ signed true (2 ^ 149) + signed false 1 ≠ 0 ∧ signed true 0 - signed true 0 = 0 ∧
      signed false 1 - signed true 1 ≠ 0) ∧
    (valueOf 0x80000000 = .finite true 0 ∧ valueOf 0xBF800000 = .finite true (2 ^ 149) ∧ valueOf 1 = .finite false 1 ∧
      valueOf 0x7F7FFFFF = .finite false ((2 ^ 24 - 1) * 2 ^ 253)) ∧
    (valueOf 0x7F800000 = .inf false ∧ valueOf 0xFF800000 = .inf true) := by decide +kernel

/-- FcmpWritesOrderFlags: the values of the four clauses and an unordered compare. -/
theorem witness_fcmp :
    valueOf ((operands 0x3F800000 0xFF800000).reg 1) = .finite false (2 ^ 149) ∧
    valueOf ((operands 0x3F800000 0xFF800000).reg 2) = .inf true ∧
    (fcmpFlags 0x7FC00000 0).c = true ∧ fcmpFlags 0xFF800000 0x7F800000 = ⟨false, false, true, false⟩ ∧
    fcmpFlags 0x7F800000 0x7F7FFFFF = ⟨false, false, false, false⟩ := by decide +kernel

/-- FcvtRoundsSignedInteger's last clause and IcvtInvertsFcvtOnSmallIntegers: the largest magnitude. -/
theorem witness_fcvt :
    ((operands 0x01000000 0).reg 1).toInt.natAbs ≤ 2 ^ 24 ∧ ((operands 0xFF000000 0).reg 1).toInt.natAbs ≤ 2 ^ 24 ∧
    ∃ t, exec (.fcvt 2 1) (operands 0x01000000 0) = .next t := ⟨by decide +kernel, by decide +kernel, _, rfl⟩

/-- IcvtTruncatesOrDraws: -2^31 itself is in range and 2^31 is not; an infinity is no finite value. -/
theorem witness_icvt :
    valueOf ((operands 0xCF000000 0).reg 1) = .finite true (2 ^ 31 * 2 ^ 149) ∧
    -2 ^ 31 ≤ signed true (2 ^ 31 * 2 ^ 149 / 2 ^ 149) ∧ signed true (2 ^ 31 * 2 ^ 149 / 2 ^ 149) < 2 ^ 31 ∧
    valueOf ((operands 0x4F000000 0).reg 1) = .finite false (2 ^ 31 * 2 ^ 149) ∧
    ¬ signed false (2 ^ 31 * 2 ^ 149 / 2 ^ 149) < 2 ^ 31 ∧
    valueOf ((operands 0x7F800000 0).reg 1) = .inf false := by decide +kernel

/-- AccessCheckDecidesByEveryByte: the last byte in range, one past it, and a reason from the second page of a span. -/
theorem witness_access_check :
    State.reset.check .read 0xFFFF 1 = none ∧ State.reset.check .read 0xFFFF 2 = some .range ∧
    State.reset.check .read 0xBFFF 2 = some .notPresent := by decide +kernel

/-- HostWriteIsReadBackOrRefused: each clause. -/
theorem witness_host_write :
    memWf State.reset.mem ∧ State.reset.check .write 0xBFFE [1, 2].length = none ∧
    State.reset.check .write 0xBFFE [1, 2, 3].length ≠ none ∧ State.reset.check .read 0xFFFC 4 = none ∧
    State.reset.check .read 0xFFFD 4 ≠ none := by decide +kernel

/-- StepWritesOnlyWritablePages, StepLeavesHostControlledState and StepKeepsInvariant: a step from a state that meets the
invariant and changes a byte. -/
theorem witness_step_writes :
    (running 0x23000024).Inv ∧ step (running 0x23000024) = .next (stepWord State.reset 0x23000024) ∧
    (stepWord State.reset 0x23000024).byte 0xFFFC ≠ (running 0x23000024).byte 0xFFFC := by
  refine ⟨by decide +kernel, rfl, by decide +kernel⟩

/-- DecodeInvertsEncode: a well-formed instruction of each format at a boundary of its immediate. -/
theorem witness_encode :
    OpcodeMap.wf defaultOpcodeMap = true ∧ (Instr.cas 15 15 15).wf defaultOpcodeMap = true ∧
    (Instr.loadi 15 0xFFFF8000).wf defaultOpcodeMap = true ∧ (Instr.call 0x7FFFFF).wf defaultOpcodeMap = true := by
  decide +kernel

/-- EncodersRoundTripEveryField: the lowest and the highest value of each argument. -/
theorem witness_encoders :
    (255 < 256 ∧ 15 < 16 ∧ (-32768 : Int) ≤ -32768 ∧ (-32768 : Int) ≤ 32767 ∧ (-8388608 : Int) ≤ -8388608 ∧
      (-8388608 : Int) ≤ 8388607) ∧
    ((-32768 : Int) ≤ 32767 ∧ (32767 : Int) ≤ 32767 ∧ (-8388608 : Int) ≤ 8388607 ∧ (8388607 : Int) ≤ 8388607) := by
  decide +kernel

/-- IgnoredBitsDoNotChangeTheInstruction: a word that decodes, and junk that touches ignored bits. -/
theorem witness_ignored_bits :
    decodeWord defaultOpcodeMap 0x09000104 = .ok (.cmp 1 4) ∧ (0xFFFFFFFF &&& Op.ignoredMask .cmp) ≠ 0 := by
  decide +kernel

/-- UnassignedOpcodesAreRejected. -/
theorem witness_unassigned : lookupOp defaultOpcodeMap (opcodeOf 0xFF000000) = none := by decide +kernel

/-- StepRunsTheDecodedInstruction: with breakpoints enabled, at another address. -/
theorem witness_step_runs :
    let s := { running 0x01030102 with dbgEnabled := true, breakpoints := [8] }
    s.breakRequest = false ∧ s.halted = false ∧ (s.dbgEnabled = true → s.pc ∉ s.breakpoints) ∧
    s.check .fetch s.pc 4 = none ∧
    decodeBytes s.params.opcodeMap (memReadBytes s.mem s.pc.toNat 4) = .ok (.add 3 1 2, []) := by decide +kernel

/-- IdleStepsRunNoInstruction: each clause. -/
theorem witness_idle :
    (requestBreak State.reset).breakRequest = true ∧
    ({ State.reset with halted := true }.breakRequest = false ∧ { State.reset with halted := true }.halted = true) ∧
    (let s := { State.reset with dbgEnabled := true, breakpoints := [0] }
     s.breakRequest = false ∧ s.halted = false ∧ s.dbgEnabled = true ∧ s.pc ∈ s.breakpoints) := by decide +kernel

/-- FetchAndDecodeFaultsAreRecorded: each clause. -/
theorem witness_fetch_decode_faults :
    State.reset.breakRequest = false ∧ State.reset.halted = false ∧ State.reset.atBreakpoint = false ∧
    (setPc 0xFFFD State.reset).check .fetch (setPc 0xFFFD State.reset).pc 4 = some .range ∧
    State.reset.check .fetch State.reset.pc 4 = none ∧
    lookupOp State.reset.params.opcodeMap (opcodeOf (State.reset.loadWord State.reset.pc)) = none := by decide +kernel

/-- FaultsArePrecise: a division by zero, which changes a register. -/
theorem witness_precise :
    step ((operands 100 0).withFetchWord 32 0x04030102) = .next (stepWord (operands 100 0) 0x04030102) ∧
    (stepWord (operands 100 0) 0x04030102).result = some .fault ∧
    (stepWord (operands 100 0) 0x04030102).faultInfo.kind ≠ 7 ∧ (stepWord (operands 100 0) 0x04030102).faultCause = 2 ∧
    (stepWord State.reset 0x24000000).result = some .fault ∧ (stepWord State.reset 0x24000000).faultCause ≠ 2 := by
  refine ⟨rfl, by decide +kernel⟩

/-- FaultsArePrecise, its second clause: the push of a dispatch fails. -/
theorem witness_precise_dispatch :
    let s := setSpPort 0xE000 (withVector 5 ⟨0x100, true, true⟩ State.reset)
    step (s.withFetchWord 32 0x10010001) = .next (stepWord s 0x10010001) ∧
    (stepWord s 0x10010001).result = some .fault ∧ (stepWord s 0x10010001).faultInfo.kind = 7 := by
  refine ⟨rfl, by decide +kernel, by decide +kernel⟩

/-- InstructionCountCountsRetiredSteps: each result on both sides. The Fault of a dispatch push is `witness_precise_dispatch`'s,
the other Fault `witness_precise`'s; the break request, the halted state and the breakpoint are `witness_idle`'s. -/
theorem witness_count :
    step (running 0x01030102) = .next (stepWord State.reset 0x01030102) ∧
    (stepWord State.reset 0x01030102).result = some .continued ∧
    (stepWord State.reset 0x31000000).result = some .halted ∧ (running 0x31000000).halted = false ∧
    (running 0x31000000).breakRequest = false ∧
    (stepWord (setSingleStep true State.reset) 0x01030102).result = some .paused ∧
    (setSingleStep true State.reset).dbgEnabled = false ∧
    (stepWord (requestBreak State.reset) 0x01030102).result = some .halted ∧
    (stepWord { State.reset with dbgEnabled := true, breakpoints := [0] } 0x01030102).result = some .paused := by
  refine ⟨rfl, by decide +kernel⟩

/-- A state with vector 31 ready and no lower one. -/
def ready31 : State := withVector 31 ⟨0x100, true, true⟩ (withVector 3 ⟨0x200, false, true⟩ State.reset)

/-- DispatchEntersLowestReadyHandler and HandlerReturnsWithRet, with the highest vector. -/
theorem witness_dispatch :
    memWf ready31.mem ∧ ready31.irqGlobalEnable = true ∧ ready31.vec[31].pending = true ∧ ready31.vec[31].enabled = true ∧
    (∀ j : Irq, j < 31 → (ready31.vec[j].pending && ready31.vec[j].enabled) = false) ∧ ready31.readyVector = some 31 ∧
    ready31.check (.irqPush 31) (ready31.sp - 4) 4 = none ∧ ready31.check .pop (ready31.sp - 4) 4 = none := by
  decide +kernel

/-- FailedDispatchPushIsRecorded. -/
theorem witness_dispatch_fault :
    (setSpPort 3 ready31).irqGlobalEnable = true ∧
    (setSpPort 3 ready31).check (.irqPush 31) ((setSpPort 3 ready31).sp - 4) 4 = some .range := by decide +kernel

/-- RetireAdvancesPcAndCounters: a fault, `halted`, no ready vector (the enable off, and on), a ready vector whose push passes
and one whose push fails. -/
theorem witness_retire :
    (State.reset.raise .illegalOpcode).result = some .fault ∧ ({ State.reset with halted := true } : State).halted = true ∧
    State.reset.result ≠ some .fault ∧ State.reset.halted = false ∧ State.reset.irqGlobalEnable = false ∧
    (irqEnable true State.reset).irqGlobalEnable = true ∧
    (∀ i : Irq, ((irqEnable true State.reset).vec[i].pending && (irqEnable true State.reset).vec[i].enabled) = false) ∧
    (dispatchIrq ready31).result ≠ some .fault ∧ (dispatchIrq ready31).pc = 0x100 ∧
    (dispatchIrq (setSpPort 3 ready31)).result = some .fault := by decide +kernel

/-- OnlyFlagWritersChangeFlags: an instruction that changes the flags. -/
theorem witness_flags :
    exec (.add 3 1 2) (operands 1 1) = .next (stateOf (exec (.add 3 1 2) (operands 1 1)) State.reset) ∧
    (stateOf (exec (.add 3 1 2) (operands 1 1)) State.reset).flags ≠ (operands 1 1).flags := by
  refine ⟨rfl, by decide +kernel⟩

/-- StackPointerMovesByFour: CALL, where sp moves. -/
theorem witness_sp :
    Instr.call 8 ≠ .syscall ∧ exec (.call 8) State.reset = .next (stateOf (exec (.call 8) State.reset) State.reset) ∧
    (stateOf (exec (.call 8) State.reset) State.reset).sp = State.reset.sp - 4 := by
  refine ⟨by decide, rfl, by decide +kernel⟩

/-- HostOperationsKeepInvariant: a state with 16 breakpoints, to which a 17th is offered. -/
theorem witness_host_ops :
    let s := { State.reset with breakpoints := (List.range 16).map (BitVec.ofNat 32) }
    s.Inv ∧ (addBreakpoint 99 s).2 = .failed ∧ (addBreakpoint 3 s).2 = .done := by decide +kernel

/-- OnlyResetLeavesHalted. -/
theorem witness_halted :
    ∃ s t : State, s.halted = true ∧ step s = .next t ∧ (hostOp .reset s).halted = false :=
  ⟨{ State.reset with halted := true }, _, rfl, rfl, rfl⟩

/-- VectorPortsChangeOneVector: an index outside the range and the highest inside it. -/
theorem witness_vector_ports : ¬ (0 ≤ (32 : Int) ∧ (32 : Int) < 32) ∧ (31 : Int) = (31 : Irq).val := by decide

/-- RunReturnsByStepResult: a step of each result. -/
theorem witness_run :
    (stepWord State.reset 0x31000000).result = some .halted ∧ (stepWord State.reset 0).result = some .fault ∧
    (stepWord (setSingleStep true State.reset) 0x01030102).result = some .paused ∧
    (stepWord State.reset 0x01030102).result = some .continued := by decide +kernel

end Sys2Proof.Tests
end

section
/-! SUPPORT. The encoders of R157 read back by the decoder, field by field (R158). Each encoder is a bitwise or of fields
placed at the bit positions of R151 to R153; a read of one field sees the field placed there and nothing of the others. -/

namespace Sys2Proof.Laws

/-! ### Reading a placed field -/

/-- A field is read back from the bits it was placed at. -/
theorem extractLsb'_placed_same {n : Nat} (b : BitVec n) (lo : Nat) (hfit : lo + n ≤ 32) :
    (b.setWidth 32 <<< lo).extractLsb' lo n = b := by
  apply BitVec.eq_of_getLsbD_eq
  intro i hi
  simp [hi, show lo + i < 32 by omega]

/-- A read whose bits are disjoint from a placed field's bits sees zero of it. -/
theorem extractLsb'_placed_disjoint {n : Nat} (b : BitVec n) (lo lo' n' : Nat) (hdisj : lo' + n' ≤ lo ∨ lo + n ≤ lo') :
    (b.setWidth 32 <<< lo).extractLsb' lo' n' = 0 := by
  apply BitVec.eq_of_getLsbD_eq
  intro i hi
  rcases hdisj with hbelow | habove
  · simp [show lo' + i < lo by omega]
  · simp [BitVec.getLsbD_of_ge b (lo' + i - lo) (by omega)]

/-- The lowest field of a word is placed at bit 0 without a shift. -/
theorem extractLsb'_lowest_same {n : Nat} (b : BitVec n) (hfit : n ≤ 32) :
    (b.setWidth 32).extractLsb' 0 n = b := by
  simpa using extractLsb'_placed_same b 0 (by omega)

/-- A read above the lowest field sees zero of it. -/
theorem extractLsb'_lowest_above {n : Nat} (b : BitVec n) (lo' n' : Nat) (habove : n ≤ lo') :
    (b.setWidth 32).extractLsb' lo' n' = 0 := by
  simpa using extractLsb'_placed_disjoint b 0 lo' n' (by omega)

/-! ### The register fields of an encoded word (R151, R152) -/

theorem regField_encodeR_rd (op rd rs1 rs2 : Nat) :
    regField (encodeR op rd rs1 rs2) 16 = (BitVec.ofNat 4 rd).toFin := by
  simp [regField, encodeR, BitVec.extractLsb'_or, extractLsb'_placed_same, extractLsb'_placed_disjoint,
    extractLsb'_lowest_above]

theorem regField_encodeR_rs1 (op rd rs1 rs2 : Nat) :
    regField (encodeR op rd rs1 rs2) 8 = (BitVec.ofNat 4 rs1).toFin := by
  simp [regField, encodeR, BitVec.extractLsb'_or, extractLsb'_placed_same, extractLsb'_placed_disjoint,
    extractLsb'_lowest_above]

theorem regField_encodeR_rs2 (op rd rs1 rs2 : Nat) :
    regField (encodeR op rd rs1 rs2) 0 = (BitVec.ofNat 4 rs2).toFin := by
  simp [regField, encodeR, BitVec.extractLsb'_or, extractLsb'_placed_disjoint, extractLsb'_lowest_same]

theorem regField_encodeI_rd (op rd : Nat) (imm : Int) :
    regField (encodeI op rd imm) 16 = (BitVec.ofNat 4 rd).toFin := by
  simp [regField, encodeI, BitVec.extractLsb'_or, extractLsb'_placed_same, extractLsb'_placed_disjoint,
    extractLsb'_lowest_above]

/-! ### The immediates of an encoded word (R152, R153) -/

theorem extractLsb'_encodeI_imm (op rd : Nat) (imm : Int) :
    (encodeI op rd imm).extractLsb' 0 16 = BitVec.ofInt 16 imm := by
  simp [encodeI, BitVec.extractLsb'_or, extractLsb'_placed_disjoint, extractLsb'_lowest_same]

theorem extractLsb'_encodeJ_imm (op : Nat) (imm : Int) :
    (encodeJ op imm).extractLsb' 0 24 = BitVec.ofInt 24 imm := by
  simp [encodeJ, BitVec.extractLsb'_or, extractLsb'_placed_disjoint, extractLsb'_lowest_same]

/-- A number in the signed range of a field survives being cut to the field and sign-extended to a word (R156). -/
theorem toInt_signExtend_ofInt {n : Nat} (imm : Int) (hpos : 0 < n) (hn : n ≤ 32) (hlo : -2 ^ (n - 1) ≤ imm)
    (hhi : imm < 2 ^ (n - 1)) : ((BitVec.ofInt n imm).signExtend 32).toInt = imm := by
  rw [BitVec.toInt_signExtend_of_le hn, BitVec.toInt_ofInt_eq_self hpos hlo hhi]

theorem val_toFin_ofNat_four {r : Nat} (hr : r < 16) : (BitVec.ofNat 4 r).toFin.val = r := by
  simpa using hr

/-! ### The round trip of each encoder (R158) -/

theorem decodeFields_encodeR (m : OpcodeMap) (b : Byte) {rd rs1 rs2 : Nat} (hrd : rd < 16) (hrs1 : rs1 < 16)
    (hrs2 : rs2 < 16) :
    (decodeFields m (encodeR b.toNat rd rs1 rs2)).opcode = b ∧ (decodeFields m (encodeR b.toNat rd rs1 rs2)).rd.val = rd ∧
    (decodeFields m (encodeR b.toNat rd rs1 rs2)).rs1.val = rs1 ∧ (decodeFields m (encodeR b.toNat rd rs1 rs2)).rs2.val = rs2 := by
  refine ⟨opcodeOf_encodeR b rd rs1 rs2, ?_, ?_, ?_⟩
  · rw [decodeFields, regField_encodeR_rd, val_toFin_ofNat_four hrd]
  · rw [decodeFields, regField_encodeR_rs1, val_toFin_ofNat_four hrs1]
  · rw [decodeFields, regField_encodeR_rs2, val_toFin_ofNat_four hrs2]

theorem decodeFields_encodeI (m : OpcodeMap) (b : Byte) {rd : Nat} {imm : Int} (hrd : rd < 16) (hlo : -32768 ≤ imm)
    (hhi : imm ≤ 32767) :
    (decodeFields m (encodeI b.toNat rd imm)).opcode = b ∧ (decodeFields m (encodeI b.toNat rd imm)).rd.val = rd ∧
    (decodeFields m (encodeI b.toNat rd imm)).imm.toInt = imm := by
  refine ⟨opcodeOf_encodeI b rd imm, ?_, ?_⟩
  · rw [decodeFields, regField_encodeI_rd, val_toFin_ofNat_four hrd]
  · rw [decodeFields, extractLsb'_encodeI_imm, toInt_signExtend_ofInt imm (by omega) (by omega) (by omega) (by omega)]

theorem decodeFields_encodeJ (m : OpcodeMap) (b : Byte) {imm : Int} (hlo : -8388608 ≤ imm) (hhi : imm ≤ 8388607) :
    (decodeFields m (encodeJ b.toNat imm)).opcode = b ∧ (decodeFields m (encodeJ b.toNat imm)).target.toInt = imm := by
  refine ⟨opcodeOf_encodeJ b imm, ?_⟩
  rw [decodeFields, extractLsb'_encodeJ_imm, toInt_signExtend_ofInt imm (by omega) (by omega) (by omega) (by omega)]

/-- Settles O38: an `op` below 256 is an opcode byte, and each encoder's round trip holds for every such byte. -/
theorem encodersRoundTripEveryField : Obligations.EncodersRoundTripEveryField := by
  intro m op rd rs1 rs2 imm16 imm24 hop hrd hrs1 hrs2 hlo16 hhi16 hlo24 hhi24
  obtain ⟨b, rfl⟩ : ∃ b : Byte, b.toNat = op := ⟨BitVec.ofNat 8 op, Nat.mod_eq_of_lt hop⟩
  obtain ⟨hopR, hfieldsR⟩ := decodeFields_encodeR m b hrd hrs1 hrs2
  obtain ⟨hopI, hfieldsI⟩ := decodeFields_encodeI m b hrd hlo16 hhi16
  obtain ⟨hopJ, htarget⟩ := decodeFields_encodeJ m b hlo24 hhi24
  exact ⟨⟨congrArg _ hopR, hfieldsR⟩, ⟨congrArg _ hopI, hfieldsI⟩, ⟨congrArg _ hopJ, htarget⟩⟩

end Sys2Proof.Laws
end

section
/-! SUPPORT. The flag functions of R200 as facts about exact sums and differences: Z and N read the result, C is the unsigned
carry or borrow, and V says that the exact signed result leaves the range of a word. -/

namespace Sys2Proof.Laws

open Sys2Proof.Machine

/-! ### Z and N (R200, `setZN`) -/

theorem flagsOf_z_iff (r : Word) (c v : Bool) : (flagsOf r c v).z = true ↔ r = 0 :=
  decide_eq_true_iff

/-- N is bit 31 of the result, which is its sign. -/
theorem flagsOf_n (r : Word) (c v : Bool) : (flagsOf r c v).n = decide (r.toInt < 0) := by
  calc (flagsOf r c v).n = r.msb := (BitVec.msb_eq_getLsbD_last r).symm
    _ = decide (r.toInt < 0) := BitVec.msb_eq_toInt

theorem flagsOf_n_iff (r : Word) (c v : Bool) : (flagsOf r c v).n = true ↔ r.toInt < 0 := by
  rw [flagsOf_n, decide_eq_true_iff]

/-! ### C and V of an add (R200, `addC` and `addV`) -/

theorem addC_iff (a b : Word) : addC a b = true ↔ 2 ^ 32 ≤ a.toNat + b.toNat :=
  decide_eq_true_iff

/-- Operands of one sign with a sum of the other sign are exactly the signed overflows. -/
theorem addV_eq_saddOverflow (a b : Word) : addV a b (a + b) = a.saddOverflow b := by
  have hsigns : addV a b (a + b) = ((a ^^^ (a + b)) &&& (b ^^^ (a + b))).msb := (BitVec.msb_eq_getLsbD_last _).symm
  rw [hsigns, BitVec.saddOverflow_eq, BitVec.msb_and, BitVec.msb_xor, BitVec.msb_xor]
  cases a.msb <;> cases b.msb <;> simp

theorem addV_iff (a b : Word) :
    addV a b (a + b) = true ↔ a.toInt + b.toInt < -2 ^ 31 ∨ 2 ^ 31 ≤ a.toInt + b.toInt := by
  simp [addV_eq_saddOverflow, BitVec.saddOverflow, or_comm]

/-! ### C and V of a subtract (R200, `subC` and `subV`) -/

theorem subC_iff (a b : Word) : subC a b = true ↔ a.toNat < b.toNat :=
  decide_eq_true_iff

/-- Operands of two signs with a difference of the second's sign are exactly the signed overflows. -/
theorem subV_eq_ssubOverflow (a b : Word) : subV a b (a - b) = a.ssubOverflow b := by
  have hsigns : subV a b (a - b) = ((a ^^^ b) &&& (a ^^^ (a - b))).msb := (BitVec.msb_eq_getLsbD_last _).symm
  rw [hsigns, BitVec.ssubOverflow_eq, BitVec.msb_and, BitVec.msb_xor, BitVec.msb_xor]
  cases a.msb <;> cases b.msb <;> simp

theorem subV_iff (a b : Word) :
    subV a b (a - b) = true ↔ a.toInt - b.toInt < -2 ^ 31 ∨ 2 ^ 31 ≤ a.toInt - b.toInt := by
  simp [subV_eq_ssubOverflow, BitVec.ssubOverflow, or_comm]

/-- Where the subtraction overflows, the wrapped difference has the sign that the exact one has not, and elsewhere it is the
exact one; so N and V differ exactly where the exact difference is negative (R211). -/
theorem subFlags_n_ne_v_iff (a b : Word) : (subFlags a b).n ≠ (subFlags a b).v ↔ a.toInt < b.toInt := by
  have hn : (subFlags a b).n = true ↔ (a - b).toInt < 0 := flagsOf_n_iff _ _ _
  have hv : (subFlags a b).v = true ↔ a.toInt - b.toInt < -2 ^ 31 ∨ 2 ^ 31 ≤ a.toInt - b.toInt := subV_iff a b
  rw [Ne, Bool.eq_iff_iff, hn, hv]
  by_cases hover : a.toInt - b.toInt < -2 ^ 31 ∨ 2 ^ 31 ≤ a.toInt - b.toInt
  · have hlow : a.toInt - b.toInt < -2 ^ 31 → 0 ≤ (a - b).toInt := by
      intro h
      obtain ⟨-, -, hwrapped⟩ := BitVec.toInt_sub_toInt_lt_twoPow_iff.1 h
      rwa [BitVec.toInt_sub]
    have hhigh : 2 ^ 31 ≤ a.toInt - b.toInt → (a - b).toInt < 0 := by
      intro h
      obtain ⟨-, -, hwrapped⟩ := BitVec.twoPow_le_toInt_sub_toInt_iff.1 h
      rwa [BitVec.toInt_sub]
    omega
  · have hexact : (a - b).toInt = a.toInt - b.toInt :=
      BitVec.toInt_sub_of_not_ssubOverflow (by rwa [← subV_eq_ssubOverflow, subV_iff])
    omega

/-! ### The arms of ADD, SUB and CMP (R201, R202, R211) -/

theorem exec_add_eq (rd rs1 rs2 : Reg) (s : State) :
    exec (.add rd rs1 rs2) s = .next { s with
      regs := s.regs.set rd (s.reg rs1 + s.reg rs2), flags := addFlags (s.reg rs1) (s.reg rs2) } := by
  rfl

theorem exec_sub_eq (rd rs1 rs2 : Reg) (s : State) :
    exec (.sub rd rs1 rs2) s = .next { s with
      regs := s.regs.set rd (s.reg rs1 - s.reg rs2), flags := subFlags (s.reg rs1) (s.reg rs2) } := by
  rfl

theorem exec_cmp_eq (rs1 rs2 : Reg) (s : State) :
    exec (.cmp rs1 rs2) s = .next { s with flags := subFlags (s.reg rs1) (s.reg rs2) } := by
  rfl

/-- Settles O1: the flags are `addFlags` of the two sources, and each flag is one of the facts about R200 above. -/
theorem addWritesSumCarryAndOverflow : Obligations.AddWritesSumCarryAndOverflow := by
  intro rd rs1 rs2 s
  exact ⟨addFlags (s.reg rs1) (s.reg rs2), exec_add_eq rd rs1 rs2 s, flagsOf_z_iff _ _ _, addC_iff _ _,
    flagsOf_n_iff _ _ _, addV_iff _ _⟩

/-- Settles O2: SUB and CMP share `subFlags` of the two sources. Z holds where the difference is 0, so where the sources are
equal. -/
theorem subAndCmpWriteDifferenceFlags : Obligations.SubAndCmpWriteDifferenceFlags := by
  intro rd rs1 rs2 s
  have hz : (subFlags (s.reg rs1) (s.reg rs2)).z = true ↔ s.reg rs1 = s.reg rs2 :=
    (flagsOf_z_iff _ _ _).trans sub_eq_zero
  exact ⟨subFlags (s.reg rs1) (s.reg rs2), exec_sub_eq rd rs1 rs2 s, exec_cmp_eq rs1 rs2 s, hz, subC_iff _ _,
    flagsOf_n_iff _ _ _, subV_iff _ _, subFlags_n_ne_v_iff _ _⟩

end Sys2Proof.Laws
end

section
/-! SUPPORT. The rounding of R330 as integer arithmetic. A magnitude of n / d units is rounded to a number of spacings of
2^t units; that number is nearest by the rule for integers, every pattern below the band of this spacing lies further away,
and the count carries into the exponent field, so the pattern stands for exactly that many spacings. -/

namespace Sys2Proof.Laws

open Sys2Proof.Machine

/-! ### The layout of a pattern (R330) -/

theorem exponentField_eq (w : Word) : exponentField w = w.toNat / 2 ^ 23 % 256 := by
  simp [exponentField, BitVec.extractLsb'_toNat, Nat.shiftRight_eq_div_pow]

theorem fractionField_eq (w : Word) : fractionField w = w.toNat % 2 ^ 23 := by
  simp [fractionField, BitVec.extractLsb'_toNat]

/-- The two finite cases of `valueOf` as one. -/
theorem valueOf_eq_layout (w : Word) :
    valueOf w =
      if exponentField w = 255 then (if fractionField w = 0 then .inf (w.getLsbD 31) else .nan)
      else .finite (w.getLsbD 31) (if exponentField w = 0 then fractionField w
        else (2 ^ 23 + fractionField w) * 2 ^ (exponentField w - 1)) := by
  unfold valueOf
  split
  · rfl
  · split <;> rfl

/-- A finite value has at most 24 significant bits. -/
theorem units_of_valueOf_finite {w : Word} {neg : Bool} {u : Nat} (h : valueOf w = .finite neg u) :
    ∃ m k, m < 2 ^ 24 ∧ u = m * 2 ^ k := by
  have hf : fractionField w < 2 ^ 23 := by rw [fractionField_eq]; omega
  rw [valueOf_eq_layout] at h
  split at h
  · split at h <;> cases h
  · cases h
    split
    · exact ⟨fractionField w, 0, by omega, by omega⟩
    · exact ⟨2 ^ 23 + fractionField w, exponentField w - 1, by omega, rfl⟩

/-- A finite value is a whole number of spacings of 2^t units, or it is below 2^23 of them. -/
theorem units_multiple_or_lt {w : Word} {neg : Bool} {u : Nat} (h : valueOf w = .finite neg u) (t : Nat) :
    (∃ k, u = k * 2 ^ t) ∨ t ≠ 0 ∧ u < 2 ^ 23 * 2 ^ t := by
  obtain ⟨m, k, hm, rfl⟩ := units_of_valueOf_finite h
  rcases Nat.lt_or_ge k t with hlt | hge
  · refine .inr ⟨by omega, ?_⟩
    calc m * 2 ^ k < 2 ^ 24 * 2 ^ k := Nat.mul_lt_mul_of_pos_right hm (Nat.two_pow_pos k)
      _ = 2 ^ 23 * 2 ^ (k + 1) := by ring
      _ ≤ 2 ^ 23 * 2 ^ t := Nat.mul_le_mul_left _ (Nat.pow_le_pow_right (by omega) hlt)
  · exact .inl ⟨m * 2 ^ (k - t), by rw [mul_assoc, ← pow_add, Nat.sub_add_cancel hge]⟩

/-! ### Sign and magnitude -/

theorem toNat_withSign (neg : Bool) {p : Nat} (hp : p < 2 ^ 31) :
    (withSign neg p).toNat = p + if neg then 2 ^ 31 else 0 := by
  rw [withSign, BitVec.toNat_ofNat]
  apply Nat.mod_eq_of_lt
  split <;> omega

theorem toNat_withSign_false {p : Nat} (hp : p < 2 ^ 31) : (withSign false p).toNat = p :=
  toNat_withSign false hp

theorem getLsbD_31_withSign_false {p : Nat} (hp : p < 2 ^ 31) : (withSign false p).getLsbD 31 = false := by
  rw [BitVec.getLsbD, toNat_withSign_false hp, Nat.testBit_lt_two_pow hp]

theorem getLsbD_zero_withSign_false {p : Nat} (hp : p < 2 ^ 31) :
    (withSign false p).getLsbD 0 = false ↔ p % 2 = 0 := by
  rw [BitVec.getLsbD, toNat_withSign_false hp, Nat.testBit_zero]
  simp

theorem withSign_true_eq_or {p : Nat} (hp : p < 2 ^ 31) : withSign true p = withSign false p ||| 0x80000000 := by
  apply BitVec.eq_of_toNat_eq
  calc (withSign true p).toNat = 2 ^ 31 * 1 + p := (toNat_withSign true hp).trans (Nat.add_comm _ _)
    _ = 2 ^ 31 * 1 ||| p := Nat.two_pow_add_eq_or_of_lt hp 1
    _ = (withSign false p ||| 0x80000000).toNat := by
      rw [BitVec.toNat_or, toNat_withSign_false hp, Nat.or_comm]
      rfl

/-- The value of a magnitude pattern that is written as a finite exponent and a fraction. -/
theorem valueOf_withSign_false {e f : Nat} (he : e < 255) (hf : f < 2 ^ 23) :
    valueOf (withSign false (e * 2 ^ 23 + f)) =
      .finite false (if e = 0 then f else (2 ^ 23 + f) * 2 ^ (e - 1)) := by
  have hp : e * 2 ^ 23 + f < 2 ^ 31 := by omega
  have hexp : exponentField (withSign false (e * 2 ^ 23 + f)) = e := by
    rw [exponentField_eq, toNat_withSign_false hp]; omega
  have hfrac : fractionField (withSign false (e * 2 ^ 23 + f)) = f := by
    rw [fractionField_eq, toNat_withSign_false hp]; omega
  rw [valueOf_eq_layout, hexp, hfrac, if_neg he.ne, getLsbD_31_withSign_false hp]

theorem valueOf_withSign_false_infMagnitude : valueOf (withSign false infMagnitude) = .inf false := by
  decide

/-- A count of spacings put on top of the exponent `t` stands for that count: with fewer than 2^23 spacings of one unit the
pattern is subnormal, and a count of 2^24 carries into the exponent field. -/
theorem valueOf_withSign_spacings {t r : Nat} (hr : r ≤ 2 ^ 24) (hnormal : t = 0 ∨ 2 ^ 23 ≤ r)
    (hp : t * 2 ^ 23 + r < infMagnitude) :
    valueOf (withSign false (t * 2 ^ 23 + r)) = .finite false (r * 2 ^ t) := by
  have hinf : infMagnitude = 255 * 2 ^ 23 := rfl
  rcases Nat.lt_or_ge r (2 ^ 23) with hsub | hge
  · obtain rfl : t = 0 := by omega
    rw [valueOf_withSign_false (by omega) hsub, if_pos rfl, pow_zero, mul_one]
  · rcases hr.lt_or_eq with hlt | rfl
    · have hfields : t * 2 ^ 23 + r = (t + 1) * 2 ^ 23 + (r - 2 ^ 23) := by omega
      rw [hfields, valueOf_withSign_false (by omega) (by omega), if_neg (by omega), Nat.add_sub_cancel' hge,
        Nat.add_sub_cancel]
    · have hfields : t * 2 ^ 23 + 2 ^ 24 = (t + 2) * 2 ^ 23 + 0 := by omega
      rw [hfields, valueOf_withSign_false (by omega) (by omega), if_neg (by omega)]
      congr 1
      rw [show t + 2 - 1 = t + 1 from rfl]
      ring

/-! ### Rounding to an integer (`roundHalfEven`) -/

/-- The rounded quotient is the floor or the integer above it. -/
theorem roundHalfEven_floor (n d : Nat) : n / d ≤ roundHalfEven n d ∧ roundHalfEven n d ≤ n / d + 1 := by
  unfold roundHalfEven
  split
  · omega
  · split <;> omega

/-- The rounded quotient is at most half a divisor away, and even where it is exactly half a divisor away. -/
theorem roundHalfEven_spec (n : Nat) {d : Nat} (hd : 0 < d) :
    2 * (roundHalfEven n d * d) ≤ 2 * n + d ∧ 2 * n ≤ 2 * (roundHalfEven n d * d) + d ∧
    (2 * (roundHalfEven n d * d) = 2 * n + d ∨ 2 * n = 2 * (roundHalfEven n d * d) + d → roundHalfEven n d % 2 = 0) := by
  have hdiv : n / d * d + n % d = n := Nat.div_add_mod' n d
  have hmod : n % d < d := Nat.mod_lt n hd
  have hsucc : (n / d + 1) * d = n / d * d + d := Nat.succ_mul _ _
  unfold roundHalfEven
  split
  · omega
  · split
    · omega
    · rcases Nat.mod_two_eq_zero_or_one (n / d) with heven | hodd
      · rw [heven, Nat.add_zero]; omega
      · rw [hodd]; omega

/-- The rounded quotient reaches an even k exactly from k - 1/2 up: that tie goes to k, for k - 1 is odd. -/
theorem even_le_roundHalfEven_iff (n : Nat) {d k : Nat} (hd : 0 < d) (hk : k % 2 = 0) :
    k ≤ roundHalfEven n d ↔ 2 * (k * d) ≤ 2 * n + d := by
  obtain ⟨hlow, hhigh, htie⟩ := roundHalfEven_spec n hd
  generalize roundHalfEven n d = r at *
  rcases Nat.lt_trichotomy (r + 1) k with hlt | rfl | hge
  · have hstep : (r + 1 + 1) * d ≤ k * d := Nat.mul_le_mul_right d hlt
    rw [Nat.succ_mul, Nat.succ_mul] at hstep
    omega
  · rw [Nat.succ_mul r d]
    omega
  · have hstep : k * d ≤ r * d := Nat.mul_le_mul_right d (Nat.le_of_lt_succ hge)
    omega

/-- No integer is nearer to the quotient than the rounded one, and where another is as near, the rounded one is even. -/
theorem roundHalfEven_nearest (n : Nat) {d : Nat} (hd : 0 < d) (k : Nat) :
    |(n : Int) - (roundHalfEven n d * d : Nat)| ≤ |(n : Int) - (k * d : Nat)| ∧
    (|(n : Int) - (roundHalfEven n d * d : Nat)| = |(n : Int) - (k * d : Nat)| → k ≠ roundHalfEven n d →
      roundHalfEven n d % 2 = 0) := by
  obtain ⟨hlow, hhigh, htie⟩ := roundHalfEven_spec n hd
  generalize roundHalfEven n d = r at *
  rw [Int.abs_eq_natAbs, Int.abs_eq_natAbs]
  rcases Nat.lt_trichotomy k r with hlt | rfl | hgt
  · have hstep : k * d + d ≤ r * d := Nat.succ_mul k d ▸ Nat.mul_le_mul_right d hlt
    omega
  · exact ⟨le_rfl, fun _ hne => absurd rfl hne⟩
  · have hstep : r * d + d ≤ k * d := Nat.succ_mul r d ▸ Nat.mul_le_mul_right d hgt
    omega

/-! ### The spacing of the values around a magnitude -/

/-- The exponent `t` that `roundMagnitude` chooses: values around n / d are 2^t units apart. -/
def spacingExponent (n d : Nat) : Nat := Nat.log2 (n / d) - 23

/-- The divisor that counts spacings: n over it is n / d in spacings of 2^t units. -/
def spacingDivisor (n d : Nat) : Nat := d * 2 ^ spacingExponent n d

/-- The rounded count of spacings. -/
def spacings (n d : Nat) : Nat := roundHalfEven n (spacingDivisor n d)

theorem roundMagnitude_eq_min (n d : Nat) :
    roundMagnitude n d = min infMagnitude (spacingExponent n d * 2 ^ 23 + spacings n d) := by
  rw [min_def]
  rfl

theorem roundMagnitude_lt (n d : Nat) : roundMagnitude n d < 2 ^ 31 := by
  have hinf : infMagnitude < 2 ^ 31 := by decide
  exact (roundMagnitude_eq_min n d).le.trans_lt (min_lt_of_left_lt hinf)

/-- A number of spacings in units, times d. -/
theorem mul_spacing_mul (k n d : Nat) : k * 2 ^ spacingExponent n d * d = k * spacingDivisor n d := by
  rw [spacingDivisor, mul_assoc, mul_comm d]

/-- A magnitude of 2^24 units or more is at least 2^23 of its spacings. -/
theorem spacings_band_le {n d : Nat} (ht : spacingExponent n d ≠ 0) : 2 ^ 23 * spacingDivisor n d ≤ n := by
  have hexp : Nat.log2 (n / d) = 23 + spacingExponent n d := by rw [spacingExponent] at *; omega
  have hne : n / d ≠ 0 := by
    intro h0
    simp [spacingExponent, h0] at ht
  calc 2 ^ 23 * spacingDivisor n d = 2 ^ Nat.log2 (n / d) * d := by rw [hexp, spacingDivisor]; ring
    _ ≤ n / d * d := Nat.mul_le_mul_right d (Nat.log2_self_le hne)
    _ ≤ n := Nat.div_mul_le_self n d

section Spacing

variable {n d : Nat} (hd : 0 < d)

include hd

theorem spacingDivisor_pos : 0 < spacingDivisor n d :=
  Nat.mul_pos hd (Nat.two_pow_pos _)

/-- A magnitude is below 2^24 of its spacings. -/
theorem lt_spacings_band : n < 2 ^ 24 * spacingDivisor n d := by
  have hlog : n / d < 2 ^ (24 + spacingExponent n d) :=
    Nat.lt_log2_self.trans_le (Nat.pow_le_pow_right (by omega) (by rw [spacingExponent]; omega))
  calc n < 2 ^ (24 + spacingExponent n d) * d := (Nat.div_lt_iff_lt_mul hd).1 hlog
    _ = 2 ^ 24 * spacingDivisor n d := by rw [spacingDivisor]; ring

/-- The count may round up to 2^24, the first of the next spacing. -/
theorem spacings_le : spacings n d ≤ 2 ^ 24 := by
  obtain ⟨-, hupper⟩ := roundHalfEven_floor n (spacingDivisor n d)
  have hlt : n / spacingDivisor n d < 2 ^ 24 := (Nat.div_lt_iff_lt_mul (spacingDivisor_pos hd)).2 (lt_spacings_band hd)
  exact hupper.trans hlt

theorem le_spacings : spacingExponent n d = 0 ∨ 2 ^ 23 ≤ spacings n d := by
  obtain ⟨hlower, -⟩ := roundHalfEven_floor n (spacingDivisor n d)
  refine Decidable.or_iff_not_imp_left.2 fun ht => le_trans ?_ hlower
  exact (Nat.le_div_iff_mul_le (spacingDivisor_pos hd)).2 (spacings_band_le ht)

/-- The count of spacings overflows the exponent field exactly from the threshold up. Only spacings of 2^253 units, those
below infinity, meet the threshold: there the tie at 2^24 - 1/2 spacings goes up to the even count 2^24. -/
theorem infMagnitude_le_iff :
    infMagnitude ≤ spacingExponent n d * 2 ^ 23 + spacings n d ↔ (2 ^ 25 - 1) * 2 ^ 253 * d ≤ 2 * n := by
  have hinf : infMagnitude = 255 * 2 ^ 23 := rfl
  have hband : n < 2 ^ 24 * spacingDivisor n d := lt_spacings_band hd
  have hle : spacings n d ≤ 2 ^ 24 := spacings_le hd
  rcases Nat.lt_trichotomy (spacingExponent n d) 253 with hlt | heq | hgt
  · have hD : spacingDivisor n d ≤ d * 2 ^ 252 := Nat.mul_le_mul_left d (Nat.pow_le_pow_right (by omega) (by omega))
    omega
  · have hD : spacingDivisor n d = d * 2 ^ 253 := by rw [spacingDivisor, heq]
    have htop : 2 ^ 24 ≤ spacings n d ↔ 2 * (2 ^ 24 * spacingDivisor n d) ≤ 2 * n + spacingDivisor n d :=
      even_le_roundHalfEven_iff n (spacingDivisor_pos hd) (by decide)
    omega
  · have hD : d * 2 ^ 254 ≤ spacingDivisor n d := Nat.mul_le_mul_left d (Nat.pow_le_pow_right (by omega) (by omega))
    have hnormal : 2 ^ 23 * spacingDivisor n d ≤ n := spacings_band_le (by omega)
    have hge := le_spacings (n := n) hd
    omega

/-- No finite value is nearer to n / d than the rounded count of spacings: a whole number of spacings is not by the rule for
integers, and any other value is below 2^23 spacings, which n / d is not. -/
theorem spacings_nearest {w : Word} {neg : Bool} {u : Nat} (h : valueOf w = .finite neg u) :
    |(n : Int) - (spacings n d * 2 ^ spacingExponent n d * d : Nat)| ≤ |(n : Int) - (u * d : Nat)| ∧
    (|(n : Int) - (spacings n d * 2 ^ spacingExponent n d * d : Nat)| = |(n : Int) - (u * d : Nat)| →
      u ≠ spacings n d * 2 ^ spacingExponent n d → spacings n d % 2 = 0) := by
  have hnearest := roundHalfEven_nearest n (spacingDivisor_pos (n := n) hd)
  rw [mul_spacing_mul]
  rcases units_multiple_or_lt h (spacingExponent n d) with ⟨k, rfl⟩ | ⟨ht, hu⟩
  · obtain ⟨hle, htie⟩ := hnearest k
    rw [mul_spacing_mul]
    exact ⟨hle, fun heq hne => htie heq fun hk => hne (by rw [hk, spacings])⟩
  · obtain ⟨hle, -⟩ := hnearest (2 ^ 23)
    have hband : 2 ^ 23 * spacingDivisor n d ≤ n := spacings_band_le ht
    have hbelow : u * d < 2 ^ 23 * spacingDivisor n d :=
      mul_spacing_mul (2 ^ 23) n d ▸ Nat.mul_lt_mul_of_pos_right hu hd
    have hfar : |(n : Int) - (2 ^ 23 * spacingDivisor n d : Nat)| < |(n : Int) - (u * d : Nat)| := by
      rw [Int.abs_eq_natAbs, Int.abs_eq_natAbs]
      omega
    have hlt := hle.trans_lt hfar
    exact ⟨hlt.le, fun heq => absurd heq hlt.ne⟩

end Spacing

/-! ### The rounded pattern (R330) -/

theorem valueOf_roundToPattern_of_threshold_le {n d : Nat} (hd : 0 < d)
    (hover : (2 ^ 25 - 1) * 2 ^ 253 * d ≤ 2 * n) : valueOf (roundToPattern false n d) = .inf false := by
  rw [roundToPattern, roundMagnitude_eq_min, min_eq_left ((infMagnitude_le_iff hd).2 hover),
    valueOf_withSign_false_infMagnitude]

/-- Below the threshold the rounded pattern stands for the rounded count of spacings, and its last bit is that of the count. -/
theorem roundToPattern_of_lt_threshold {n d : Nat} (hd : 0 < d) (hunder : 2 * n < (2 ^ 25 - 1) * 2 ^ 253 * d) :
    valueOf (roundToPattern false n d) = .finite false (spacings n d * 2 ^ spacingExponent n d) ∧
    ((roundToPattern false n d).getLsbD 0 = false ↔ spacings n d % 2 = 0) := by
  have hlt : spacingExponent n d * 2 ^ 23 + spacings n d < infMagnitude :=
    not_le.1 fun hle => hunder.not_ge ((infMagnitude_le_iff hd).1 hle)
  have hmag : roundMagnitude n d = spacingExponent n d * 2 ^ 23 + spacings n d := by
    rw [roundMagnitude_eq_min, min_eq_right hlt.le]
  refine ⟨?_, ?_⟩
  · rw [roundToPattern, hmag, valueOf_withSign_spacings (spacings_le hd) (le_spacings hd) hlt]
  · rw [roundToPattern, getLsbD_zero_withSign_false (roundMagnitude_lt n d), hmag]
    omega

/-- Settles O24: below the threshold the witness is the rounded count of spacings in units. -/
theorem roundingIsNearestTiesToEven : Obligations.RoundingIsNearestTiesToEven := by
  refine ⟨fun w => ?_, fun n d hd => ⟨valueOf_roundToPattern_of_threshold_le hd, fun hunder => ?_,
    getLsbD_31_withSign_false (roundMagnitude_lt n d), withSign_true_eq_or (roundMagnitude_lt n d)⟩⟩
  · rw [valueOf_eq_layout, exponentField_eq, fractionField_eq]
  · obtain ⟨hvalue, hlast⟩ := roundToPattern_of_lt_threshold hd hunder
    refine ⟨_, hvalue, fun w neg u hw => ?_⟩
    obtain ⟨hle, htie⟩ := spacings_nearest (n := n) hd hw
    rw [Nat.cast_mul, Nat.cast_mul] at hle htie
    exact ⟨hle, fun heq hne => hlast.2 (htie heq hne)⟩

end Sys2Proof.Laws
end

section
/-! SUPPORT. The decoder: which operation an opcode byte selects, what the decoder reads from an encoded word, and the bits of
a word that no used field covers. -/

namespace Sys2Proof.Laws

open Sys2Proof.Machine

/-! ### The opcode map (R9, R160, R162) -/

theorem Op.mem_all (op : Op) : op ∈ Op.all := by
  cases op <;> decide

/-- In a map without repeated bytes, every row is the row of its byte. -/
theorem lookupOp_of_mem {m : OpcodeMap} {b : Byte} {op : Op} (hbytes : (m.map (·.1)).Nodup) (hrow : (b, op) ∈ m) :
    lookupOp m b = some op := by
  induction m with
  | nil => cases hrow
  | cons row m ih =>
    obtain ⟨hfresh, hbytes⟩ := List.nodup_cons.1 hbytes
    rcases List.mem_cons.1 hrow with rfl | hrow
    · exact List.lookup_cons_self
    · have hne : b ≠ row.1 := fun h => hfresh (List.mem_map.2 ⟨(b, op), hrow, h⟩)
      rw [lookupOp, List.lookup_cons, beq_false_of_ne hne]
      exact ih hbytes hrow

/-- A map that assigns an operation has a row with the byte that `opcodeByte` gives the operation. -/
theorem opcodeByte_mem {m : OpcodeMap} {op : Op} (h : OpcodeMap.assigns m op = true) : (opcodeByte m op, op) ∈ m := by
  obtain ⟨row, hrow, hop⟩ := List.any_eq_true.1 h
  unfold opcodeByte
  split
  · next found hfound =>
    have hfoundop : found.2 = op := by simpa using List.find?_some hfound
    exact hfoundop ▸ List.mem_of_find?_eq_some hfound
  · next hnone => exact absurd hop (List.find?_eq_none.1 hnone row hrow)

/-- Under an injective and total map, the byte of an operation selects that operation. -/
theorem lookupOp_opcodeByte {m : OpcodeMap} (hm : OpcodeMap.wf m = true) (op : Op) :
    lookupOp m (opcodeByte m op) = some op := by
  simp only [OpcodeMap.wf, Bool.and_eq_true, decide_eq_true_eq, List.all_eq_true] at hm
  obtain ⟨⟨hbytes, -⟩, htotal⟩ := hm
  exact lookupOp_of_mem hbytes (opcodeByte_mem (htotal op (Op.mem_all op)))

/-! ### The decoder by cases (R154, R162) -/

theorem decodeWord_of_lookupOp {m : OpcodeMap} {w : Word} {op : Op} (h : lookupOp m (opcodeOf w) = some op) :
    decodeWord m w = .ok (op.withFields (decodeFields m w)) := by
  simp only [decodeWord, h]

theorem decodeWord_of_lookupOp_none {m : OpcodeMap} {w : Word} (h : lookupOp m (opcodeOf w) = none) :
    decodeWord m w = .error (.unknownOpcode w) := by
  simp only [decodeWord, h]

/-- A word that decodes has an opcode byte in the map, and its instruction is made of its fields. -/
theorem decodeWord_ok {m : OpcodeMap} {w : Word} {i : Instr} (h : decodeWord m w = .ok i) :
    ∃ op, lookupOp m (opcodeOf w) = some op ∧ i = op.withFields (decodeFields m w) := by
  unfold decodeWord at h
  split at h
  · next op hop => exact ⟨op, hop, (Except.ok.inj h).symm⟩
  · cases h

theorem withFields_op (op : Op) (d : Fields) : (op.withFields d).op = op := by
  cases op <;> rfl

/-- The four bytes of a word decode as the word does, with no byte left. -/
theorem decodeBytes_bytesOfWord (m : OpcodeMap) (w : Word) :
    decodeBytes m (bytesOfWord w) = (decodeWord m w).map fun i => (i, []) := by
  simp only [bytesOfWord, decodeBytes, wordOfBytes_byteOfWord]
  cases decodeWord m w <;> rfl

/-! ### What the decoder reads from an encoded word (R157, R158) -/

theorem imm_encodeI {imm : Word} (h : imm16InRange imm = true) (op rd : Nat) :
    ((encodeI op rd imm.toInt).extractLsb' 0 16).signExtend 32 = imm := by
  simp only [imm16InRange, Bool.and_eq_true, decide_eq_true_eq] at h
  rw [extractLsb'_encodeI_imm]
  exact BitVec.eq_of_toInt_eq (toInt_signExtend_ofInt _ (by omega) (by omega) (by omega) (by omega))

theorem target_encodeJ {target : Word} (h : imm24InRange target = true) (op : Nat) :
    ((encodeJ op target.toInt).extractLsb' 0 24).signExtend 32 = target := by
  simp only [imm24InRange, Bool.and_eq_true, decide_eq_true_eq] at h
  rw [extractLsb'_encodeJ_imm]
  exact BitVec.eq_of_toInt_eq (toInt_signExtend_ofInt _ (by omega) (by omega) (by omega) (by omega))

theorem opcodeOf_encode (m : OpcodeMap) (i : Instr) : opcodeOf (encode m i) = opcodeByte m i.op := by
  cases i with
  | loadi rd imm => exact EncodedOpcode.loadi rd imm m
  | jmp target => exact EncodedOpcode.jmp target m
  | jz target => exact EncodedOpcode.jz target m
  | jnz target => exact EncodedOpcode.jnz target m
  | call target => exact EncodedOpcode.call target m
  | _ => exact opcodeOf_encodeR _ _ _ _

/-- The operation of an instruction puts it together again from the fields of its word: an R word holds each register it
uses, and an I or J word holds its immediate where the field can hold it. -/
theorem withFields_encode (m : OpcodeMap) {i : Instr} (h : i.immInRange = true) :
    i.op.withFields (decodeFields m (encode m i)) = i := by
  cases i with
  | loadi rd imm =>
    simp [Instr.op, Op.withFields, decodeFields, encode, regField_encodeI_rd, imm_encodeI h]
  | jmp target => exact congrArg Instr.jmp (target_encodeJ h _)
  | jz target => exact congrArg Instr.jz (target_encodeJ h _)
  | jnz target => exact congrArg Instr.jnz (target_encodeJ h _)
  | call target => exact congrArg Instr.call (target_encodeJ h _)
  | _ =>
    simp [Instr.op, Op.withFields, decodeFields, encode, regField_encodeR_rd, regField_encodeR_rs1, regField_encodeR_rs2]

/-- Settles O37: the opcode byte of the word selects the instruction's operation, which reads its operands back. -/
theorem decodeInvertsEncode : Obligations.DecodeInvertsEncode := by
  intro m i hm hi
  obtain ⟨himm, -⟩ := Bool.and_eq_true_iff.1 hi
  have hlookup : lookupOp m (opcodeOf (encode m i)) = some i.op := by
    rw [opcodeOf_encode, lookupOp_opcodeByte hm]
  have hword : decodeWord m (encode m i) = .ok i := by
    rw [decodeWord_of_lookupOp hlookup, withFields_encode m himm]
  refine ⟨hword, ?_⟩
  rw [decodeBytes_bytesOfWord, hword]
  rfl

/-! ### Ignored bits (R155) -/

/-- Flipping bits under a mask does not change a field that the mask leaves out. -/
theorem extractLsb'_xor_masked (w junk : Word) {mask : Word} {lo n : Nat} (h : mask.extractLsb' lo n = 0) :
    (w ^^^ (junk &&& mask)).extractLsb' lo n = w.extractLsb' lo n := by
  rw [BitVec.extractLsb'_xor, BitVec.extractLsb'_and, h]
  simp

theorem opcodeOf_xor_ignoredMask (op : Op) (w junk : Word) : opcodeOf (w ^^^ (junk &&& op.ignoredMask)) = opcodeOf w := by
  refine extractLsb'_xor_masked w junk ?_
  cases op <;> decide

/-- The mask of each operation leaves out every field that the operation uses. -/
theorem withFields_xor_ignoredMask (m : OpcodeMap) (op : Op) (w junk : Word) :
    op.withFields (decodeFields m (w ^^^ (junk &&& op.ignoredMask))) = op.withFields (decodeFields m w) := by
  cases op <;>
    simp (disch := decide) only [Op.withFields, Op.ignoredMask, decodeFields, regField, extractLsb'_xor_masked]

/-- Settles O39. -/
theorem ignoredBitsDoNotChangeTheInstruction : Obligations.IgnoredBitsDoNotChangeTheInstruction := by
  intro m w junk i hdecode
  obtain ⟨op, hlookup, rfl⟩ := decodeWord_ok hdecode
  rw [withFields_op, decodeWord_of_lookupOp (op := op) (by rw [opcodeOf_xor_ignoredMask, hlookup]),
    withFields_xor_ignoredMask]

/-! ### The default opcode map (R160) -/

/-- Settles O9: byte 0x10 is the row of LOADI, and its immediate is the low half read as a signed number. -/
theorem loadiImmediateIsSignedLowHalf : Obligations.LoadiImmediateIsSignedLowHalf := by
  intro w hbyte
  have hopcode : opcodeOf w = 0x10 := by
    apply BitVec.eq_of_toNat_eq
    rw [opcodeOf, BitVec.extractLsb'_toNat, Nat.shiftRight_eq_div_pow, hbyte]
    rfl
  have hlookup : lookupOp defaultOpcodeMap (opcodeOf w) = some .loadi := by
    rw [hopcode]; rfl
  refine ⟨_, _, decodeWord_of_lookupOp hlookup, ?_, ?_⟩
  · simp [decodeFields, regField, Nat.shiftRight_eq_div_pow]
  · have hlow : (w.extractLsb' 0 16).toNat = w.toNat % 2 ^ 16 := by simp [BitVec.extractLsb'_toNat]
    rw [decodeFields, BitVec.toInt_signExtend_of_le (by omega), BitVec.toInt_eq_toNat_cond, hlow]
    split <;> split <;> omega

theorem defaultOpcodeMap_wf : OpcodeMap.wf defaultOpcodeMap = true := by
  decide

/-- Settles O40: the table has 38 rows with different bytes, so 218 bytes are left. -/
theorem unassignedOpcodesAreRejected : Obligations.UnassignedOpcodesAreRejected :=
  ⟨defaultOpcodeMap_wf, by decide +kernel, fun _ => decodeWord_of_lookupOp_none⟩

/-- Settles O41: each word's byte selects a row, and the row's operation reads its fields. -/
theorem sampleWordsDecode : Obligations.SampleWordsDecode := by
  refine ⟨?_, ?_, ?_, ?_, ?_, ?_, ?_, ?_⟩ <;> rfl

end Sys2Proof.Laws
end

section
/-! SUPPORT. Words in memory and the access check: the bytes of a word that is read or stored, what a page entry grants, and
the check of a range of bytes by the page of each byte. -/

namespace Sys2Proof.Laws

open Sys2Proof.Machine

/-! ### Words in memory (R13, R108) -/

theorem toNat_append_byte {n : Nat} (hi : BitVec n) (b : Byte) : (hi ++ b).toNat = b.toNat + 2 ^ 8 * hi.toNat := by
  rw [BitVec.toNat_append, ← Nat.shiftLeft_add_eq_or_of_lt b.isLt, Nat.shiftLeft_eq]
  omega

theorem toNat_wordOfBytes (b0 b1 b2 b3 : Byte) :
    (wordOfBytes b0 b1 b2 b3).toNat = b0.toNat + 2 ^ 8 * b1.toNat + 2 ^ 16 * b2.toNat + 2 ^ 24 * b3.toNat := by
  simp only [wordOfBytes, toNat_append_byte]
  omega

/-- Settles O32. -/
theorem loadWordIsLittleEndian : Obligations.LoadWordIsLittleEndian :=
  fun _ _ => toNat_wordOfBytes _ _ _ _

theorem byteOfWord_eq (w : Word) (k : Nat) : byteOfWord w k = (w >>> (8 * k)).setWidth 8 := by
  apply BitVec.eq_of_getLsbD_eq
  intro i hi
  simp [byteOfWord]

/-- The memory after a word is stored: byte k of the word at the address plus k, and every byte outside the four as before. -/
def HoldsWordAt (m' : Memory) (a v : Word) (m : Memory) : Prop :=
  (∀ k < 4, memRead m' (a.toNat + k) = (v >>> (8 * k)).setWidth 8) ∧
  ∀ b, b < a.toNat ∨ a.toNat + 4 ≤ b → memRead m' b = memRead m b

/-- A store whose check passes writes its four bytes and nothing else. -/
theorem storeWord_holdsWordAt {s : State} (hm : memWf s.mem) {k : AccessKind} {a : Word}
    (hc : s.check k a 4 = none) (v : Word) : HoldsWordAt (s.storeWord a v).mem a v s.mem := by
  have hread := byte_storeWord hm v (check_none_range (by omega) hc)
  refine ⟨fun k hk => ?_, fun b hb => ?_⟩
  · rw [← byteOfWord_eq]
    exact (hread (a.toNat + k)).trans (by simp [hk])
  · exact (hread b).trans (if_neg (by omega))

/-! ### What a page entry grants (R103, R104) -/

/-- An entry answers no reason exactly where it is PRESENT and has each bit that the kind needs. -/
theorem pageReason_eq_none_iff (k : AccessKind) (e : Byte) :
    pageReason k e = none ↔
      pagePresent e = true ∧ (k.needsRead = true → pageReadable e = true) ∧
      (k.needsWrite = true → pageWritable e = true) ∧ (k.needsExec = true → pageExecutable e = true) := by
  unfold pageReason
  cases pagePresent e
  · simp
  · cases k.needsRead <;> cases pageReadable e <;> cases k.needsWrite <;> cases pageWritable e <;> simp

theorem pageReason_eq_notPresent_iff (k : AccessKind) (e : Byte) :
    pageReason k e = some .notPresent ↔ pagePresent e = false := by
  unfold pageReason
  cases pagePresent e
  · simp
  · simp only [Bool.not_true, Bool.false_eq_true, if_false]
    split_ifs <;> simp

theorem pageReason_ne_range (k : AccessKind) (e : Byte) : pageReason k e ≠ some .range := by
  unfold pageReason
  split_ifs <;> simp

/-- Settles O34: the bits that each kind needs, as a mask. -/
theorem pageGrantsExactlyTheNeededBits : Obligations.PageGrantsExactlyTheNeededBits := by
  intro e i
  simp only [pageReason_eq_none_iff, pageReason_eq_notPresent_iff, AccessKind.needsRead, AccessKind.needsWrite,
    AccessKind.needsExec, forall_const]
  refine ⟨?_, ?_, ?_, ?_, ?_, ?_, ?_, ?_, fun k => ?_⟩ <;> revert e <;> decide +kernel

/-! ### The check of a range of bytes (R110) -/

theorem checkAccess_zero (pt : PageTable) (k : AccessKind) (a : Word) : checkAccess pt k a 0 = none := rfl

/-- The pages touched are the pages of the bytes. -/
theorem mem_pagesTouched_iff_byte {a n p : Nat} (h : 0 < n) :
    p ∈ pagesTouched a n ↔ ∃ b, a ≤ b ∧ b < a + n ∧ b / pageSize = p := by
  rw [mem_pagesTouched h]
  simp only [pageSize]
  constructor
  · rintro ⟨hlow, hhigh⟩
    refine ⟨max a (p * 256), ?_, ?_, ?_⟩ <;> omega
  · rintro ⟨b, hab, hb, rfl⟩
    omega

/-- Everything a check of at least one byte can answer. -/
theorem checkAccess_cases (pt : PageTable) (k : AccessKind) (a : Word) {n : Nat} (h : 0 < n) :
    (memSize < a.toNat + n ∧ checkAccess pt k a n = some .range) ∨
    (a.toNat + n ≤ memSize ∧
      checkAccess pt k a n = (pagesTouched a.toNat n).findSome? fun p => pageReason k (pageEntry pt p)) := by
  unfold checkAccess
  rw [if_neg (by omega)]
  split
  · next hr => exact .inl ⟨hr, rfl⟩
  · next hr => exact .inr ⟨by omega, rfl⟩

/-- A check answers RANGE exactly where the exact sum passes MEM_SIZE: no page answers it. -/
theorem checkAccess_eq_range_iff {pt : PageTable} {k : AccessKind} {a : Word} {n : Nat} (h : 0 < n) :
    checkAccess pt k a n = some .range ↔ memSize < a.toNat + n := by
  rcases checkAccess_cases pt k a h with ⟨hr, heq⟩ | ⟨hr, heq⟩
  · exact iff_of_true heq hr
  · refine iff_of_false (fun hrange => ?_) (by omega)
    obtain ⟨p, -, hp⟩ := List.exists_of_findSome?_eq_some (heq ▸ hrange)
    exact pageReason_ne_range k _ hp

/-- In range, a check passes exactly where the page of every byte grants the access. -/
theorem checkAccess_eq_none_iff_byte {pt : PageTable} {k : AccessKind} {a : Word} {n : Nat} (h : 0 < n)
    (hr : a.toNat + n ≤ memSize) :
    checkAccess pt k a n = none ↔
      ∀ b, a.toNat ≤ b → b < a.toNat + n → pageReason k (pageEntry pt (b / pageSize)) = none := by
  rw [checkAccess_eq_none h]
  constructor
  · rintro ⟨-, hp⟩ b hab hb
    exact hp _ ((mem_pagesTouched_iff_byte h).2 ⟨b, hab, hb, rfl⟩)
  · refine fun hb => ⟨hr, fun p hp => ?_⟩
    obtain ⟨b, hab, hbn, rfl⟩ := (mem_pagesTouched_iff_byte h).1 hp
    exact hb b hab hbn

/-- In range, a reason is that of the lowest page that answers one. -/
theorem checkAccess_eq_some_first {pt : PageTable} {k : AccessKind} {a : Word} {n : Nat} {r : Reason} (h : 0 < n)
    (hr : a.toNat + n ≤ memSize) (hc : checkAccess pt k a n = some r) :
    ∃ b, a.toNat ≤ b ∧ b < a.toNat + n ∧ pageReason k (pageEntry pt (b / pageSize)) = some r ∧
      ∀ c, a.toNat ≤ c → c / pageSize < b / pageSize → pageReason k (pageEntry pt (c / pageSize)) = none := by
  rcases checkAccess_cases pt k a h with ⟨hr', -⟩ | ⟨-, heq⟩
  · omega
  rw [heq, List.findSome?_eq_some_iff] at hc
  obtain ⟨below, p, above, hpages, hp, hbelow⟩ := hc
  have hsorted : (below ++ p :: above).Pairwise (· < ·) := hpages ▸ List.pairwise_lt_range'
  have hmem : ∀ q, q ∈ pagesTouched a.toNat n ↔ q ∈ below ∨ q = p ∨ q ∈ above := by simp [hpages]
  obtain ⟨b, hab, hb, rfl⟩ := (mem_pagesTouched_iff_byte h).1 ((hmem p).2 (.inr (.inl rfl)))
  refine ⟨b, hab, hb, hp, fun c hac hcb => hbelow _ ?_⟩
  have hcn : c < a.toNat + n := by simp only [pageSize] at hcb; omega
  rcases (hmem _).1 ((mem_pagesTouched_iff_byte h).2 ⟨c, hac, hcn, rfl⟩) with hc | hc | hc
  · exact hc
  · omega
  · have habove := List.rel_of_pairwise_cons (List.pairwise_append.1 hsorted).2.1 hc
    omega

/-- Settles O33. -/
theorem accessCheckDecidesByEveryByte : Obligations.AccessCheckDecidesByEveryByte := fun s k a =>
  ⟨checkAccess_zero s.pages k a, fun _ hn =>
    ⟨checkAccess_eq_range_iff hn, fun hr =>
      ⟨checkAccess_eq_none_iff_byte hn hr, fun _ hc => checkAccess_eq_some_first hn hr hc⟩⟩⟩

/-! ### Host memory (R114) -/

/-- Bytes written in range are read back as they were written. -/
theorem memReadBytes_memWriteBytes {m : Memory} (hm : memWf m) {a : Nat} {vs : List Byte}
    (h : a + vs.length ≤ memSize) : memReadBytes (memWriteBytes m a vs) a vs.length = vs := by
  refine List.ext_getElem (by simp [memReadBytes]) fun j hj hjv => ?_
  simp [memReadBytes, memRead_memWriteBytes hm h, hjv]

/-- The bytes of a check that passes are in range, or there are none. -/
theorem check_none_range_or_empty {s : State} {k : AccessKind} {a : Word} {n : Nat} (hc : s.check k a n = none) :
    n = 0 ∨ a.toNat + n ≤ memSize :=
  n.eq_zero_or_pos.imp_right fun h => check_none_range h hc

theorem readMemory_of_check {s : State} {addr : Word} {n : Nat} (hc : s.check .read addr n = none) :
    readMemory addr n s = some (memReadBytes s.mem addr.toNat n) := by
  simp only [readMemory, hc]

theorem readMemory_of_check_ne {s : State} {addr : Word} {n : Nat} (hc : s.check .read addr n ≠ none) :
    readMemory addr n s = none := by
  obtain ⟨r, hr⟩ := Option.ne_none_iff_exists'.1 hc
  simp only [readMemory, hr]

theorem copyIn_of_check {s : State} {k : AccessKind} {addr : Word} {bytes : List Byte}
    (hc : s.check k addr bytes.length = none) :
    copyIn k addr bytes s = (s.setMem (memWriteBytes s.mem addr.toNat bytes), .done) := by
  simp only [copyIn, hc]

theorem copyIn_of_check_ne {s : State} {k : AccessKind} {addr : Word} {bytes : List Byte}
    (hc : s.check k addr bytes.length ≠ none) : copyIn k addr bytes s = (s, .failed) := by
  obtain ⟨r, hr⟩ := Option.ne_none_iff_exists'.1 hc
  simp only [copyIn, hr]

/-- Settles O35. -/
theorem hostWriteIsReadBackOrRefused : Obligations.HostWriteIsReadBackOrRefused := by
  refine fun addr buf s hm => ⟨fun hc => ⟨_, copyIn_of_check hc, ?_⟩, copyIn_of_check_ne,
    fun _ => readMemory_of_check, fun _ => readMemory_of_check_ne⟩
  rcases check_none_range_or_empty hc with hempty | hrange
  · obtain rfl := List.eq_nil_of_length_eq_zero hempty
    exact ⟨rfl, fun _ _ => rfl⟩
  · exact ⟨memReadBytes_memWriteBytes hm hrange, fun _ ha => memRead_memWriteBytes_outside hm hrange ha⟩

end Sys2Proof.Laws
end

section
/-! SUPPORT. The instructions that compute on registers alone: what each writes, as an equation, and the arithmetic of their
results. -/

namespace Sys2Proof.Laws

open Sys2Proof.Machine

/-! ### MUL (R203) -/

theorem exec_mul_eq (rd rs1 rs2 : Reg) (s : State) :
    exec (.mul rd rs1 rs2) s = .next { s with
      regs := s.regs.set rd (BitVec.ofNat 32 ((s.reg rs1).toNat * (s.reg rs2).toNat)),
      flags := mulFlags (s.reg rs1) (s.reg rs2) } := by
  rfl

/-- "High half nonzero" says that the exact product does not fit a word. -/
theorem mulFlags_c_iff (a b : Word) : (mulFlags a b).c = true ↔ 2 ^ 32 ≤ a.toNat * b.toNat := by
  rw [mulFlags, flagsOf, decide_eq_true_iff, Nat.div_ne_zero_iff]
  simp

/-- Settles O3. -/
theorem mulWritesLowWordOfExactProduct : Obligations.MulWritesLowWordOfExactProduct := fun rd rs1 rs2 s =>
  ⟨_, _, exec_mul_eq rd rs1 rs2 s, BitVec.toNat_ofNat _ _, flagsOf_z_iff _ _ _, mulFlags_c_iff _ _,
    flagsOf_n_iff _ _ _, rfl⟩

/-! ### DIV and MOD (R204, R205) -/

/-- A zero divisor zeroes rd and raises. -/
theorem divide_of_zero (which : Division) (f : Nat → Nat → Nat) (rd rs1 : Reg) {rs2 : Reg} {s : State}
    (h : s.reg rs2 = 0) : divide which f rd rs1 rs2 s = (s.setReg rd 0).raise (.arithmetic which) := by
  simp [divide, h]

/-- With a nonzero divisor rd gets the result, and Z and N its sign and zero. -/
theorem divide_of_ne_zero (which : Division) (f : Nat → Nat → Nat) (rd rs1 : Reg) {rs2 : Reg} {s : State}
    (h : s.reg rs2 ≠ 0) :
    divide which f rd rs1 rs2 s =
      (s.setReg rd (BitVec.ofNat 32 (f (s.reg rs1).toNat (s.reg rs2).toNat))).setFlags
        (plainFlags (BitVec.ofNat 32 (f (s.reg rs1).toNat (s.reg rs2).toNat))) := by
  have hpos : (s.reg rs2).toNat ≠ 0 := fun h0 => h (BitVec.eq_of_toNat_eq h0)
  simp only [divide, if_neg hpos]

theorem toNat_pos_of_ne_zero {w : Word} (h : w ≠ 0) : 0 < w.toNat :=
  Nat.pos_of_ne_zero fun h0 => h (BitVec.eq_of_toNat_eq h0)

/-- Settles O4: the quotient is at most the dividend, so it fits a word. -/
theorem divWritesFloorQuotientOrFaults : Obligations.DivWritesFloorQuotientOrFaults := by
  intro rd rs1 rs2 s
  refine ⟨fun hne => ⟨_, _, congrArg _ (divide_of_ne_zero .div _ rd rs1 hne), ?_, ?_, flagsOf_z_iff _ _ _,
    flagsOf_n_iff _ _ _, rfl, rfl⟩, fun hzero => congrArg _ (divide_of_zero .div _ rd rs1 hzero)⟩
  all_goals
    have hfits : (s.reg rs1).toNat / (s.reg rs2).toNat < 2 ^ 32 := (Nat.div_le_self _ _).trans_lt (s.reg rs1).isLt
    rw [BitVec.toNat_ofNat, Nat.mod_eq_of_lt hfits]
  · exact Nat.div_mul_le_self _ _
  · exact Nat.lt_mul_of_div_lt (Nat.lt_succ_self _) (toNat_pos_of_ne_zero hne)

/-- Settles O5: the remainder is below the divisor, so it fits a word. -/
theorem modWritesRemainderOrFaults : Obligations.ModWritesRemainderOrFaults := by
  intro rd rs1 rs2 s
  refine ⟨fun hne => ⟨(s.reg rs1).toNat / (s.reg rs2).toNat, _, _, congrArg _ (divide_of_ne_zero .mod _ rd rs1 hne),
    ?_, ?_, flagsOf_z_iff _ _ _, flagsOf_n_iff _ _ _, rfl, rfl⟩,
    fun hzero => congrArg _ (divide_of_zero .mod _ rd rs1 hzero)⟩
  all_goals
    have hlt : (s.reg rs1).toNat % (s.reg rs2).toNat < (s.reg rs2).toNat := Nat.mod_lt _ (toNat_pos_of_ne_zero hne)
    rw [BitVec.toNat_ofNat, Nat.mod_eq_of_lt (hlt.trans (s.reg rs2).isLt)]
  · exact (Nat.div_add_mod' _ _).symm
  · exact hlt

/-! ### AND, OR, XOR and TEST (R208 to R210, R212) -/

theorem plainFlags_eq (r : Word) : plainFlags r = ⟨decide (r = 0), false, decide (r.toInt < 0), false⟩ := by
  rw [← flagsOf_n r false false]
  rfl

/-- Settles O6. -/
theorem logicIsBitwiseAndClearsCarryOverflow : Obligations.LogicIsBitwiseAndClearsCarryOverflow := fun _ rs1 rs2 s =>
  ⟨s.reg rs1 &&& s.reg rs2, s.reg rs1 ||| s.reg rs2, s.reg rs1 ^^^ s.reg rs2, _, _, _, rfl, rfl, rfl, rfl,
    fun _ _ => BitVec.getLsbD_and, fun _ _ => BitVec.getLsbD_or, fun _ _ => BitVec.getLsbD_xor,
    plainFlags_eq _, plainFlags_eq _, plainFlags_eq _⟩

/-! ### SLT, SLE, SEQ and SNE (R213 to R216) -/

theorem boolWord_decide (p : Prop) [Decidable p] : boolWord (decide p) = if p then 1 else 0 := by
  simp [boolWord]

theorem writeBinary_eq (f : Word → Word → Word) (rd rs1 rs2 : Reg) (s : State) :
    writeBinary f rd rs1 rs2 s = { s with regs := s.regs.set rd (f (s.reg rs1) (s.reg rs2)) } := by
  rfl

/-- Settles O7. -/
theorem setOnConditionWritesOneOrZero : Obligations.SetOnConditionWritesOneOrZero := by
  intro rd rs1 rs2 s
  refine ⟨?_, ?_, ?_, ?_⟩
  · simp only [exec, execSlt, writeBinary_eq, boolWord_decide]
  · simp only [exec, execSle, writeBinary_eq, boolWord_decide]
  · simp only [exec, execSeq, writeBinary_eq, boolWord_decide]
  · simp only [exec, execSne, writeBinary_eq, boolWord_decide, ne_eq, ite_not]

/-! ### LOADI, MOVE and FMOV (R240, R241, R338) -/

/-- Settles O8. -/
theorem loadImmediateAndMovesWriteOneRegister : Obligations.LoadImmediateAndMovesWriteOneRegister := by
  intro rd rs1 imm s
  refine ⟨?_, ?_, ?_⟩ <;> rfl

/-! ### SIMD (R370 to R374) -/

theorem toNat_lane (k : Nat) (w : Word) : (lane k w).toNat = w.toNat / 256 ^ k % 256 := by
  rw [lane, BitVec.extractLsb'_toNat, Nat.shiftRight_eq_div_pow, Nat.pow_mul]

/-- Lane k of a word made of lanes is the k-th of them. -/
theorem lane_ofLanes (l : Nat → Byte) {k : Nat} (hk : k < 4) : lane k (ofLanes l) = l k := by
  apply BitVec.eq_of_toNat_eq
  have hsum : (ofLanes l).toNat = _ := toNat_wordOfBytes (l 0) (l 1) (l 2) (l 3)
  have h0 := (l 0).isLt
  have h1 := (l 1).isLt
  have h2 := (l 2).isLt
  have h3 := (l 3).isLt
  rw [toNat_lane, hsum]
  interval_cases k <;> omega

/-- Each lane of a lane-wise result depends on that lane of the sources alone. -/
theorem toNat_lanewise (f : Byte → Byte → Byte) (a b : Word) {k : Nat} (hk : k < 4) :
    (lanewise f a b).toNat / 256 ^ k % 256 = (f (lane k a) (lane k b)).toNat := by
  rw [← toNat_lane, lanewise, lane_ofLanes _ hk]

/-- Settles O30. -/
theorem simdLanesAreIndependentModulo256 : Obligations.SimdLanesAreIndependentModulo256 := by
  intro rd rs1 rs2 s
  refine ⟨_, _, _, rfl, rfl, rfl, fun k hk => ⟨?_, ?_, ?_⟩⟩
  all_goals rw [toNat_lanewise _ _ _ hk, ← toNat_lane, ← toNat_lane]
  · exact BitVec.toNat_add _ _
  · have hb := (lane k (s.reg rs2)).isLt
    rw [BitVec.toNat_sub]
    omega
  · exact BitVec.toNat_mul _ _

theorem laneDot_eq_sum (a b : Word) :
    laneDot a b = ((List.range 4).map fun k => (a.toNat / 256 ^ k % 256) * (b.toNat / 256 ^ k % 256)).sum := by
  simp only [← toNat_lane]
  simp [laneDot, List.range_succ, Nat.add_assoc]

/-- Four products of bytes. -/
theorem laneDot_le (a b : Word) : laneDot a b ≤ 260100 := by
  have hprod : ∀ k, (lane k a).toNat * (lane k b).toNat ≤ 255 * 255 := fun k =>
    Nat.mul_le_mul (Nat.le_of_lt_succ (lane k a).isLt) (Nat.le_of_lt_succ (lane k b).isLt)
  have h0 := hprod 0
  have h1 := hprod 1
  have h2 := hprod 2
  have h3 := hprod 3
  rw [laneDot]
  omega

/-- Settles O31: the sum is small, so the word holds it exactly. -/
theorem vdotIsExactSumOfLaneProducts : Obligations.VdotIsExactSumOfLaneProducts := by
  intro rd rs1 rs2 s
  have hle := laneDot_le (s.reg rs1) (s.reg rs2)
  have hexact : (BitVec.ofNat 32 (laneDot (s.reg rs1) (s.reg rs2))).toNat = laneDot (s.reg rs1) (s.reg rs2) := by
    rw [BitVec.toNat_ofNat]
    omega
  exact ⟨_, rfl, hexact.trans (laneDot_eq_sum _ _), hexact.le.trans hle⟩

end Sys2Proof.Laws
end

section
/-! SUPPORT. Jumps, the stack, the interrupt push and the atomic instructions: what each does where its check passes and where
it fails, and the return to a pushed address. -/

namespace Sys2Proof.Laws

open Sys2Proof.Machine

/-! ### Jumps (R261 to R263) -/

theorem exec_jz_eq (imm : Word) (s : State) :
    exec (.jz imm) s = .next (if s.flags.z then s.jump (jumpTarget s imm) else s) := by
  rfl

theorem exec_jnz_eq (imm : Word) (s : State) :
    exec (.jnz imm) s = .next (if s.flags.z then s else s.jump (jumpTarget s imm)) := by
  rfl

/-- Settles O10. -/
theorem jumpsWriteTargetWhereTaken : Obligations.JumpsWriteTargetWhereTaken := by
  intro imm s
  refine ⟨rfl, fun hz => ?_, fun hz => ?_, fun hz => ?_, fun hz => ?_⟩
  · rw [exec_jz_eq, hz]; rfl
  · rw [exec_jz_eq, hz]; rfl
  · rw [exec_jnz_eq, hz]; rfl
  · rw [exec_jnz_eq, hz]; rfl

/-! ### Pushes: CALL and the interrupt dispatcher (R264, R433, R437) -/

theorem push_of_check {s : State} {k : AccessKind} (hc : s.check k (s.sp - 4) 4 = none) (v : Word) :
    s.push k v = .ok ((s.storeWord (s.sp - 4) v).setSp (s.sp - 4)) := by
  simp only [State.push, hc]

theorem push_of_check_some {s : State} {k : AccessKind} {r : Reason} (hc : s.check k (s.sp - 4) 4 = some r) (v : Word) :
    s.push k v = .error (.memory k (s.sp - 4) 4 r) := by
  simp only [State.push, hc]

theorem exec_call_of_check {s : State} (hc : s.check .push (s.sp - 4) 4 = none) (imm : Word) :
    exec (.call imm) s =
      .next (((s.storeWord (s.sp - 4) (s.pc + 4)).setSp (s.sp - 4)).jump (jumpTarget s imm)) := by
  simp only [exec, execCall, callTo, push_of_check hc, orRaise_ok]

theorem exec_call_of_check_some {s : State} {r : Reason} (hc : s.check .push (s.sp - 4) 4 = some r) (imm : Word) :
    exec (.call imm) s = .next (s.raise (.memory .push (s.sp - 4) 4 r)) := by
  simp only [exec, execCall, callTo, push_of_check_some hc, orRaise_error]

/-- Settles O11. -/
theorem callPushesReturnAddressOrFaults : Obligations.CallPushesReturnAddressOrFaults := fun imm s hm =>
  ⟨fun hc => ⟨_, exec_call_of_check hc imm, storeWord_holdsWordAt hm hc (s.pc + 4)⟩,
    fun _ hc => exec_call_of_check_some hc imm⟩

/-- A ready vector with no lower ready one is the vector the dispatcher takes (R434). -/
theorem readyVector_of_lowest {s : State} {i : Irq} (hready : s.ready i = true) (hlow : ∀ j < i, s.ready j = false) :
    s.readyVector = some i := by
  cases hv : s.readyVector with
  | none => exact absurd hready (List.find?_eq_none.1 hv i (List.mem_finRange i))
  | some j =>
    obtain ⟨hj, hlowj⟩ := readyVector_some hv
    rcases lt_trichotomy j i with hlt | rfl | hgt
    · exact absurd hj (by simp [hlow j hlt])
    · rfl
    · exact absurd hready (by simp [hlowj i hgt])

theorem dispatchIrq_of_check {s : State} {i : Irq} (hg : s.irqGlobalEnable = true) (hv : s.readyVector = some i)
    (hc : s.check (.irqPush i) (s.sp - 4) 4 = none) :
    dispatchIrq s = ((s.storeWord (s.sp - 4) s.pc).setSp (s.sp - 4)).enterHandler i := by
  simp only [dispatchIrq, hg, if_true, hv, push_of_check hc]

theorem dispatchIrq_of_check_some {s : State} {i : Irq} {r : Reason} (hg : s.irqGlobalEnable = true)
    (hv : s.readyVector = some i) (hc : s.check (.irqPush i) (s.sp - 4) 4 = some r) :
    dispatchIrq s = s.raise (.memory (.irqPush i) (s.sp - 4) 4 r) := by
  simp only [dispatchIrq, hg, if_true, hv, push_of_check_some hc]

/-- Settles O49. -/
theorem dispatchEntersLowestReadyHandler : Obligations.DispatchEntersLowestReadyHandler :=
  fun s _ hm hg hpending henabled hlow hc =>
    have hv := readyVector_of_lowest (Bool.and_eq_true_iff.2 ⟨hpending, henabled⟩) hlow
    ⟨_, dispatchIrq_of_check hg hv hc, storeWord_holdsWordAt hm hc s.pc⟩

/-- Settles O50. -/
theorem failedDispatchPushIsRecorded : Obligations.FailedDispatchPushIsRecorded :=
  fun _ _ _ hg hpending henabled hlow hc =>
    dispatchIrq_of_check_some hg (readyVector_of_lowest (Bool.and_eq_true_iff.2 ⟨hpending, henabled⟩) hlow) hc

/-! ### The return (R265, R435) -/

theorem exec_ret_of_check {s : State} (hc : s.check .pop s.sp 4 = none) :
    exec .ret s = .next ((s.setSp (s.sp + 4)).jump (s.loadWord s.sp)) := by
  simp only [exec, execRet, State.popReturn, hc, orRaise_ok]

theorem exec_ret_of_check_some {s : State} {r : Reason} (hc : s.check .pop s.sp 4 = some r) :
    exec .ret s = .next (s.raise (.memory .pop s.sp 4 r)) := by
  simp only [exec, execRet, State.popReturn, hc, orRaise_error]

/-- Settles O12. -/
theorem retPopsReturnAddressOrFaults : Obligations.RetPopsReturnAddressOrFaults := fun s =>
  ⟨fun hc => ⟨_, exec_ret_of_check hc, loadWordIsLittleEndian s s.sp⟩, fun _ hc => exec_ret_of_check_some hc⟩

/-- RET in a state that a push of `v` has led to, whatever else was written but sp, memory and pages, goes back to `v` with
the sp before the push. -/
theorem exec_ret_after_push {s t : State} {k : AccessKind} {v : Word} (hm : memWf s.mem)
    (hpush : s.check k (s.sp - 4) 4 = none) (hpop : s.check .pop (s.sp - 4) 4 = none)
    (hmem : t.mem = (s.storeWord (s.sp - 4) v).mem) (hsp : t.sp = s.sp - 4) (hpages : t.pages = s.pages) :
    exec .ret t = .next ((t.setSp s.sp).jump v) := by
  have hcheck : t.check .pop t.sp 4 = none := by rw [hsp, State.check, hpages]; exact hpop
  have hword : t.loadWord t.sp = v := by
    have hload : t.loadWord t.sp = (s.storeWord (s.sp - 4) v).loadWord (s.sp - 4) := by
      simp only [State.loadWord, State.byte, hmem, hsp]
    exact hload.trans (loadWord_storeWord hm v (check_none_range (by omega) hpush))
  rw [exec_ret_of_check hcheck, hword, hsp, sub_add_cancel]

/-- Settles O13. -/
theorem callThenRetReturnsToNextInstruction : Obligations.CallThenRetReturnsToNextInstruction := by
  intro imm s hm hpush hpop
  refine ⟨_, _, exec_call_of_check hpush imm, exec_ret_after_push (v := s.pc + 4) hm hpush hpop ?_ ?_ ?_, ?_⟩ <;>
    simp [State.storeWord]

/-- Settles O51. -/
theorem handlerReturnsWithRet : Obligations.HandlerReturnsWithRet := by
  intro s i hm hg hv hpush hpop
  rw [dispatchIrq_of_check hg hv hpush]
  refine ⟨_, exec_ret_after_push (v := s.pc) hm hpush hpop ?_ ?_ ?_, ?_⟩ <;> simp [State.storeWord, hg]

/-! ### Atomics (R310 to R312) -/

theorem readModifyWrite_of_check {s : State} {rs1 : Reg} (hc : s.check .rmw (s.reg rs1) 4 = none) (f : Word → State) :
    readModifyWrite rs1 f s = f (s.loadWord (s.reg rs1)) := by
  simp only [readModifyWrite, State.readCell, hc]

theorem readModifyWrite_of_check_some {s : State} {rs1 : Reg} {r : Reason}
    (hc : s.check .rmw (s.reg rs1) 4 = some r) (f : Word → State) :
    readModifyWrite rs1 f s = s.raise (.memory .rmw (s.reg rs1) 4 r) := by
  simp only [readModifyWrite, State.readCell, hc]

/-- Settles O19. -/
theorem xchgSwapsRegisterAndCellOrFaults : Obligations.XchgSwapsRegisterAndCellOrFaults := fun _ _ rs2 s hm =>
  ⟨fun hc => ⟨_, congrArg _ (readModifyWrite_of_check hc _), storeWord_holdsWordAt hm hc (s.reg rs2)⟩,
    fun _ hc => congrArg _ (readModifyWrite_of_check_some hc _)⟩

/-- Settles O20. -/
theorem casStoresOnlyOnMatchOrFaults : Obligations.CasStoresOnlyOnMatchOrFaults := fun _ _ rs2 s hm =>
  ⟨fun hc hmatch => ⟨_, congrArg _ ((readModifyWrite_of_check hc _).trans (if_pos hmatch)),
      storeWord_holdsWordAt hm hc (s.reg rs2)⟩,
    fun hc hdiffer => congrArg _ ((readModifyWrite_of_check hc _).trans (if_neg hdiffer)),
    fun _ hc => congrArg _ (readModifyWrite_of_check_some hc _)⟩

/-- Settles O21. -/
theorem fetchAndAddStoresSumOrFaults : Obligations.FetchAndAddStoresSumOrFaults := fun _ rs1 rs2 s hm =>
  ⟨fun hc => ⟨_, s.loadWord (s.reg rs1) + s.reg rs2, congrArg _ (readModifyWrite_of_check hc _), BitVec.toNat_add _ _,
      storeWord_holdsWordAt hm hc _⟩,
    fun _ hc => congrArg _ (readModifyWrite_of_check_some hc _)⟩

end Sys2Proof.Laws
end

section
/-! SUPPORT. SYSCALL: the effect of each number, the heap, and what an environment outcome does to memory. `WritesAllowed`
says that a memory follows from another by writes that the page table allows. -/

namespace Sys2Proof.Laws

open Sys2Proof.Machine

/-! ### Writes that the page table allows (R104, R110) -/

/-- The later memory is canonical, and differs from the earlier one only in range and on pages that are PRESENT and WRITE. -/
def WritesAllowed (pt : PageTable) (m m' : Memory) : Prop :=
  memWf m' ∧ ∀ a, memRead m' a ≠ memRead m a →
    a < memSize ∧ pagePresent (pageEntry pt (a / pageSize)) = true ∧ pageWritable (pageEntry pt (a / pageSize)) = true

theorem WritesAllowed.refl (pt : PageTable) {m : Memory} (hm : memWf m) : WritesAllowed pt m m :=
  ⟨hm, fun _ h => absurd rfl h⟩

theorem WritesAllowed.trans {pt : PageTable} {m₁ m₂ m₃ : Memory} (h₁ : WritesAllowed pt m₁ m₂)
    (h₂ : WritesAllowed pt m₂ m₃) : WritesAllowed pt m₁ m₃ := by
  obtain ⟨-, hfirst⟩ := h₁
  obtain ⟨hm, hsecond⟩ := h₂
  refine ⟨hm, fun a ha => ?_⟩
  by_cases hsame : memRead m₃ a = memRead m₂ a
  · exact hfirst a (hsame ▸ ha)
  · exact hsecond a hsame

/-- A byte of an access that needs WRITE and passes its check lies in range on a page that is PRESENT and WRITE. -/
theorem writable_of_check {s : State} {k : AccessKind} {a : Word} {n b : Nat} (hk : k.needsWrite = true)
    (hc : s.check k a n = none) (hab : a.toNat ≤ b) (hb : b < a.toNat + n) :
    b < memSize ∧ pagePresent (pageEntry s.pages (b / pageSize)) = true ∧
      pageWritable (pageEntry s.pages (b / pageSize)) = true := by
  obtain ⟨hpresent, -, hwrite, -⟩ := (pageReason_eq_none_iff k _).1 (check_none_page hc hab hb)
  exact ⟨hb.trans_le (check_none_range (by omega) hc), hpresent, hwrite hk⟩

theorem writesAllowed_storeWord {s : State} (hm : memWf s.mem) {k : AccessKind} {a : Word} (hk : k.needsWrite = true)
    (hc : s.check k a 4 = none) (v : Word) : WritesAllowed s.pages s.mem (s.storeWord a v).mem := by
  obtain ⟨-, houtside⟩ := storeWord_holdsWordAt hm hc v
  refine ⟨memWf_storeWord hm a v, fun b hb => ?_⟩
  by_cases hin : a.toNat ≤ b ∧ b < a.toNat + 4
  · exact writable_of_check hk hc hin.1 hin.2
  · exact absurd (houtside b (by omega)) hb

/-! ### The writes of an environment outcome (R296) -/

theorem memWf_applyWrites {m : Memory} (hm : memWf m) (ws : List (Word × Byte)) : memWf (applyWrites m ws) := by
  induction ws generalizing m with
  | nil => exact hm
  | cons w ws ih => exact ih (memWf_memWrite hm _ _)

/-- After writes in range, a byte reads as the last write to it, or as before where there is none. -/
theorem memRead_applyWrites {m : Memory} (hm : memWf m) {ws : List (Word × Byte)}
    (hrange : ∀ w ∈ ws, w.1.toNat < memSize) (a : Nat) :
    memRead (applyWrites m ws) a = (ws.filter fun w => w.1.toNat == a).getLast?.elim (memRead m a) (·.2) := by
  induction ws generalizing m with
  | nil => rfl
  | cons w ws ih =>
    obtain ⟨hw, hrest⟩ := List.forall_mem_cons.1 hrange
    rw [applyWrites, ih (memWf_memWrite hm _ _) hrest, memRead_memWrite hm hw, List.filter_cons]
    by_cases ha : a = w.1.toNat
    · subst ha
      simp only [if_true, beq_self_eq_true, List.getLast?_cons]
      cases (ws.filter fun w' => w'.1.toNat == w.1.toNat).getLast? <;> rfl
    · rw [if_neg ha, if_neg (by simpa using Ne.symm ha)]

theorem mem_passedWrites {s : State} {writes : List (Word × Byte)} {w : Word × Byte} :
    w ∈ passedWrites s writes ↔ w ∈ writes ∧ s.check .write w.1 1 = none := by
  simp [passedWrites]

/-- The writes to a byte that passed, picked out in one pass. -/
theorem filter_passedWrites (s : State) (writes : List (Word × Byte)) (a : Nat) :
    (passedWrites s writes).filter (fun w => w.1.toNat == a) =
      writes.filter fun w => w.1.toNat == a && (s.check .write w.1 1).isNone := by
  rw [passedWrites, List.filter_filter]
  congr 1
  funext w
  cases s.check .write w.1 1 <;> rfl

/-- The memory after the writes that passed. -/
theorem memRead_applyWrites_passed {s : State} (hm : memWf s.mem) (writes : List (Word × Byte)) (a : Nat) :
    memRead (applyWrites s.mem (passedWrites s writes)) a =
      (writes.filter fun w => w.1.toNat == a && (s.check .write w.1 1).isNone).getLast?.elim (memRead s.mem a) (·.2) := by
  rw [memRead_applyWrites hm fun w hw => ?_, filter_passedWrites]
  have := check_none_range (by omega) (mem_passedWrites.1 hw).2
  omega

/-- A byte that the writes change is one that a write which passed its check is to. -/
theorem exists_passed_write {s : State} (hm : memWf s.mem) {writes : List (Word × Byte)} {a : Nat}
    (h : memRead (applyWrites s.mem (passedWrites s writes)) a ≠ memRead s.mem a) :
    ∃ w ∈ writes, w.1.toNat = a ∧ s.check .write w.1 1 = none := by
  rw [memRead_applyWrites_passed hm] at h
  cases hlast : (writes.filter fun w => w.1.toNat == a && (s.check .write w.1 1).isNone).getLast? with
  | none => simp [hlast] at h
  | some w => exact ⟨w, by simpa using List.mem_of_getLast? hlast⟩

theorem writesAllowed_applyWrites {s : State} (hm : memWf s.mem) (writes : List (Word × Byte)) :
    WritesAllowed s.pages s.mem (applyWrites s.mem (passedWrites s writes)) := by
  refine ⟨memWf_applyWrites hm _, fun a ha => ?_⟩
  obtain ⟨w, -, rfl, hc⟩ := exists_passed_write hm ha
  exact writable_of_check rfl hc le_rfl (by omega)

theorem viewFailed_iff (s : State) (reads : List (Word × Nat)) (writes : List (Word × Byte)) :
    viewFailed s reads writes = true ↔
      (∃ r ∈ reads, s.check .read r.1 r.2 ≠ none) ∨ (∃ w ∈ writes, s.check .write w.1 1 ≠ none) := by
  simp only [viewFailed, Bool.or_eq_true, List.any_eq_true, bne_iff_ne]

/-- Settles O18. -/
theorem environmentOutcomeStaysInItsView : Obligations.EnvironmentOutcomeStaysInItsView := by
  refine fun s hm => ⟨fun v reads writes => ?_, fun _ => rfl⟩
  have hallowed := writesAllowed_applyWrites hm writes
  refine ⟨_, _, rfl, fun hfail => ?_, fun hreads hwrites => ?_, fun a => ?_, fun a ha => ?_⟩
  · exact if_pos ((viewFailed_iff s reads writes).2 hfail)
  · refine if_neg fun hfail => ?_
    rcases (viewFailed_iff s reads writes).1 hfail with ⟨r, hr, hne⟩ | ⟨w, hw, hne⟩
    · exact hne (hreads r hr)
    · exact hne (hwrites w hw)
  · refine (memRead_applyWrites_passed hm writes a).trans ?_
    cases (writes.filter fun w => w.1.toNat == a && (s.check .write w.1 1).isNone).getLast? <;> rfl
  · obtain ⟨hrange, hpresent, hwritable⟩ := hallowed.2 a ha
    obtain ⟨w, hw, haddr, -⟩ := exists_passed_write hm ha
    exact ⟨hrange, hpresent, hwritable, w, hw, haddr⟩

/-! ### The effect of each number (R290 to R295) -/

theorem mayRead_eq (s : State) (a : Nat) : s.mayRead a = (pageEntry s.pages (a / 256) &&& 0x09 == 0x09) := by
  obtain ⟨-, -, -, -, -, hread, -⟩ := pageGrantsExactlyTheNeededBits (pageEntry s.pages (a / 256)) 0
  rw [Bool.eq_iff_iff, beq_iff_eq, ← hread]
  exact beq_iff_eq

theorem advanceTime_eq (s : State) (n : Word) :
    s.advanceTime n = { s with
      ticks := BitVec.ofNat 64 (s.ticks.toNat + n.toNat), cycleCount := BitVec.ofNat 64 (s.cycleCount.toNat + n.toNat) } := by
  have hadd : ∀ c : Count, c + n.setWidth 64 = BitVec.ofNat 64 (c.toNat + n.toNat) := fun c => by
    rw [BitVec.ofNat_add, BitVec.ofNat_toNat, BitVec.ofNat_toNat, BitVec.setWidth_eq]
  simp only [State.advanceTime, hadd]

theorem applyOutcome_draws (o : EnvOutcome) (s : State) : (applyOutcome o s).draws = s.draws := by
  cases o <;> rfl

theorem exec_syscall_eq (s : State) :
    exec .syscall s = .next (syscallEffect (Config.syscallOf (s.reg 0)) s) := by
  rfl

/-- Settles O15. -/
theorem syscallCompletesByItsNumber : Obligations.SyscallCompletesByItsNumber := by
  intro s
  rw [exec_syscall_eq]
  have hreadable : (s.mem.filter fun c => s.mayRead c.1) =
      s.mem.filter fun c => pageEntry s.pages (c.1 / 256) &&& 0x09 == 0x09 := by simp only [mayRead_eq]
  rcases Config.syscallOf (s.reg 0) with _ | call
  · rfl
  · cases call with
    | getTime => simp only [syscallEffect, sysGetTime, BitVec.ofNat_toNat]; rfl
    | sleep => simp only [syscallEffect, sysSleep, advanceTime_eq]; rfl
    | exit | alloc | free | file => rfl
    | print | read | thread | mutex | sem | other =>
      simp only [syscallEffect, sysEnvironment, envRequest, hreadable, State.drawn, applyOutcome_draws]

/-! ### The heap (R297) -/

theorem roundUp4_mod (size : Nat) : roundUp4 size % 4 = 0 := by
  rw [roundUp4]; omega

theorem le_roundUp4 (size : Nat) : size ≤ roundUp4 size := by
  rw [roundUp4]; omega

theorem roundUp4_lt (size : Nat) : roundUp4 size < size + 4 := by
  rw [roundUp4]; omega

/-- ALLOC answers 0 for no byte and for a full heap. -/
theorem sysAlloc_fails {s : State}
    (h : s.reg 1 = 0 ∨ s.heapSize.toNat < s.heapUsed.toNat + roundUp4 (s.reg 1).toNat) : sysAlloc s = s.setReg 0 0 := by
  simp only [sysAlloc]
  rcases h with hzero | hfull
  · rw [hzero]; rfl
  · exact ite_eq_left_iff.2 fun _ => if_pos hfull

/-- ALLOC answers the next free address and takes the rounded size from the heap. -/
theorem sysAlloc_succeeds {s : State} (hne : s.reg 1 ≠ 0)
    (hfree : s.heapUsed.toNat + roundUp4 (s.reg 1).toNat ≤ s.heapSize.toNat) :
    sysAlloc s = { s.setReg 0 (s.heapBase + s.heapUsed) with
      heapUsed := s.heapUsed + BitVec.ofNat 32 (roundUp4 (s.reg 1).toNat) } := by
  simp only [sysAlloc]
  rw [if_neg (toNat_pos_of_ne_zero hne).ne', if_neg (by omega)]

theorem toNat_heapUsed_add {used size : Word} {r : Nat} (h : used.toNat + r ≤ size.toNat) :
    (used + BitVec.ofNat 32 r).toNat = used.toNat + r := by
  have := size.isLt
  rw [BitVec.toNat_add, BitVec.toNat_ofNat, Nat.add_mod_mod, Nat.mod_eq_of_lt (by omega)]

/-- Settles O16. -/
theorem allocBumpsHeapByRoundedSize : Obligations.AllocBumpsHeapByRoundedSize := fun s =>
  ⟨roundUp4 (s.reg 1).toNat, roundUp4_mod _, le_roundUp4 _, roundUp4_lt _, sysAlloc_fails, fun hne hfree =>
    ⟨_, toNat_heapUsed_add hfree, sysAlloc_succeeds hne hfree⟩⟩

/-- An allocation of `n` bytes that answers nonzero, in a heap that does not wrap: the block starts at the old end of the
used part, and the used part ends after the rounded size. -/
theorem sysAlloc_answer {s t : State} {n : Word} (ht : t = sysAlloc (s.setReg 1 n))
    (hwrap : s.heapBase.toNat + s.heapSize.toNat ≤ 2 ^ 32) (h : t.reg 0 ≠ 0) :
    0 < n.toNat ∧ s.heapUsed.toNat + roundUp4 n.toNat ≤ s.heapSize.toNat ∧
    (t.reg 0).toNat = s.heapBase.toNat + s.heapUsed.toNat ∧ t.heapUsed.toNat = s.heapUsed.toNat + roundUp4 n.toNat ∧
    t.heapBase = s.heapBase ∧ t.heapSize = s.heapSize := by
  have hsize : (s.setReg 1 n).reg 1 = n := State.reg_setReg_same s 1 n
  by_cases hfail : n = 0 ∨ s.heapSize.toNat < s.heapUsed.toNat + roundUp4 n.toNat
  · rw [ht, sysAlloc_fails (by rwa [hsize])] at h
    exact absurd (State.reg_setReg_same _ 0 0) h
  · obtain ⟨hne, hfree⟩ := not_or.1 hfail
    have hpos := toNat_pos_of_ne_zero hne
    have hround := le_roundUp4 n.toNat
    have hfree : s.heapUsed.toNat + roundUp4 n.toNat ≤ s.heapSize.toNat := Nat.le_of_not_lt hfree
    have haddr : (s.heapBase + s.heapUsed).toNat = s.heapBase.toNat + s.heapUsed.toNat :=
      BitVec.toNat_add_of_lt (by omega)
    have hanswer := State.reg_setReg_same (s.setReg 1 n) 0 (s.heapBase + s.heapUsed)
    rw [ht, sysAlloc_succeeds (by rwa [hsize]) (by rwa [hsize]), hsize]
    exact ⟨hpos, hfree, (congrArg _ hanswer).trans haddr, toNat_heapUsed_add hfree, rfl, rfl⟩

/-- Settles O17: the second block starts where the rounded first one ends. -/
theorem successiveAllocationsAreDisjoint : Obligations.SuccessiveAllocationsAreDisjoint := by
  intro s n₁ n₂ hbase hused hwrap t₁ t₂ hfirst hsecond
  obtain ⟨hpos₁, -, haddr₁, hused₁, hbase₁, hsize₁⟩ := sysAlloc_answer (t := t₁) rfl hwrap hfirst
  obtain ⟨hpos₂, hfree₂, haddr₂, -⟩ := sysAlloc_answer (t := t₂) rfl (by rwa [hbase₁, hsize₁]) hsecond
  rw [hbase₁] at haddr₂
  rw [hsize₁] at hfree₂
  have hmod := roundUp4_mod n₁.toNat
  have hle₁ := le_roundUp4 n₁.toNat
  have hle₂ := le_roundUp4 n₂.toNat
  omega

end Sys2Proof.Laws
end

section
/-! SUPPORT. What an instruction and a step can do, said once. `Effect` lists every way an instruction changes the state and
`StepTo` every way a step does, each tied to the model by an inversion lemma; the whole-machine rules are read off these
lists. -/

namespace Sys2Proof.Laws

open Sys2Proof.Machine

/-! ### The effect of one instruction (R409) -/

/-- The operations of R48's table, and SYSCALL, whose Switch outcome loads a context (R296). -/
def flagWriters : List Op := [.add, .sub, .cmp, .mul, .div, .mod, .and, .or, .xor, .test, .fcmp, .syscall]

/-- Every state that SYSCALL can lead to (R290). -/
inductive SyscallEffect (s : State) : State → Prop where
  | exit : SyscallEffect s (sysExit s)
  | sleep : SyscallEffect s (sysSleep s)
  /-- GET_TIME, FREE, a failing ALLOC, a stub and an unknown number -/
  | answer (v : Word) : SyscallEffect s (s.setReg 0 v)
  | alloc (addr used : Word) : SyscallEffect s { s.setReg 0 addr with heapUsed := used }
  | environment (o : EnvOutcome) : SyscallEffect s (applyOutcome o s).drawn

/-- Every state that an instruction can lead to. -/
inductive Effect (i : Instr) (s : State) : State → Prop where
  | nothing : Effect i s s
  | register (rd : Reg) (v : Word) : Effect i s (s.setReg rd v)
  | draw (rd : Reg) (v : Word) : Effect i s (s.setReg rd v).drawn
  | flags (f : Flags) (hop : i.op ∈ flagWriters) : Effect i s (s.setFlags f)
  | registerAndFlags (rd : Reg) (v : Word) (f : Flags) (hop : i.op ∈ flagWriters) :
      Effect i s ((s.setReg rd v).setFlags f)
  | jump (t : Word) : Effect i s (s.jump t)
  | call (t : Word) (hop : i.op = .call) (hc : s.check .push (s.sp - 4) 4 = none) :
      Effect i s (((s.storeWord (s.sp - 4) (s.pc + 4)).setSp (s.sp - 4)).jump t)
  | ret (t : Word) (hop : i.op = .ret) : Effect i s ((s.setSp (s.sp + 4)).jump t)
  | halt : Effect i s { s with halted := true }
  | swap (a v : Word) (rd : Reg) (w : Word) (hc : s.check .rmw a 4 = none) :
      Effect i s ((s.storeWord a v).setReg rd w)
  | memoryFault (k : AccessKind) (a : Word) (r : Reason) (hk : k = .rmw ∨ k = .push ∨ k = .pop) :
      Effect i s (s.raise (.memory k a 4 r))
  | divisionFault (which : Division) (rd rs1 rs2 : Reg) (hi : i = .div rd rs1 rs2 ∨ i = .mod rd rs1 rs2) :
      Effect i s ((s.setReg rd 0).raise (.arithmetic which))
  | syscall (t : State) (hop : i = .syscall) (ht : SyscallEffect s t) : Effect i s t

theorem syscallEffect_effect (call : Option Syscall) (s : State) : SyscallEffect s (syscallEffect call s) := by
  rcases call with _ | call
  · exact .answer _
  cases call with
  | exit => exact .exit
  | sleep => exact .sleep
  | getTime | free | file => exact .answer _
  | print | read | thread | mutex | sem | other => exact .environment _
  | alloc =>
    show SyscallEffect s (sysAlloc s)
    by_cases hfail : s.reg 1 = 0 ∨ s.heapSize.toNat < s.heapUsed.toNat + roundUp4 (s.reg 1).toNat
    · exact sysAlloc_fails hfail ▸ .answer _
    · obtain ⟨hne, hfree⟩ := not_or.1 hfail
      exact sysAlloc_succeeds hne (Nat.le_of_not_lt hfree) ▸ .alloc _ _

theorem writeOrDraw_effect (i : Instr) (rd : Reg) (free : Word) (r : Option Word) (s : State) :
    Effect i s (writeOrDraw rd free r s) := by
  rcases writeOrDraw_cases rd free r s with ⟨v, -, heq⟩ | ⟨-, heq⟩
  · exact heq ▸ .register _ _
  · exact heq ▸ .draw _ _

theorem divide_effect {i : Instr} {rd rs1 rs2 : Reg} (hi : i = .div rd rs1 rs2 ∨ i = .mod rd rs1 rs2)
    (which : Division) (f : Nat → Nat → Nat) (s : State) : Effect i s (divide which f rd rs1 rs2 s) := by
  by_cases hzero : s.reg rs2 = 0
  · exact divide_of_zero which f rd rs1 hzero ▸ .divisionFault which rd rs1 rs2 hi
  · refine divide_of_ne_zero which f rd rs1 hzero ▸ .registerAndFlags _ _ _ ?_
    rcases hi with rfl | rfl <;> simp [Instr.op, flagWriters]

/-- A read-modify-write has the effect of its `f` where its check passes. -/
theorem readModifyWrite_effect {i : Instr} {rs1 : Reg} {f : Word → State} {s : State}
    (hf : s.check .rmw (s.reg rs1) 4 = none → ∀ old, Effect i s (f old)) : Effect i s (readModifyWrite rs1 f s) := by
  rcases readModifyWrite_cases rs1 f s with ⟨r, -, heq⟩ | ⟨hc, heq⟩
  · exact heq ▸ .memoryFault .rmw _ r (.inl rfl)
  · exact heq ▸ hf hc _

/-- Every instruction answers a next state, by one of its effects. -/
theorem exec_effect (i : Instr) (s : State) : ∃ t, exec i s = .next t ∧ Effect i s t := by
  cases i with
  | add | sub | mul | and | or | xor => exact ⟨_, rfl, .registerAndFlags _ _ _ (by simp [Instr.op, flagWriters])⟩
  | cmp | test | fcmp => exact ⟨_, rfl, .flags _ (by simp [Instr.op, flagWriters])⟩
  | slt | sle | seq | sne | loadi | move | fcvt | fmov | vadd | vsub | vmul | vdot => exact ⟨_, rfl, .register _ _⟩
  | fadd | fsub | fmul | fdiv | icvt => exact ⟨_, rfl, writeOrDraw_effect _ _ _ _ _⟩
  | div => exact ⟨_, rfl, divide_effect (.inl rfl) _ _ _⟩
  | mod => exact ⟨_, rfl, divide_effect (.inr rfl) _ _ _⟩
  | jmp target => exact ⟨_, rfl, .jump _⟩
  | jz target =>
    refine ⟨_, exec_jz_eq target s, ?_⟩
    split
    · exact .jump _
    · exact .nothing
  | jnz target =>
    refine ⟨_, exec_jnz_eq target s, ?_⟩
    split
    · exact .nothing
    · exact .jump _
  | call target =>
    cases hc : s.check .push (s.sp - 4) 4 with
    | none => exact ⟨_, exec_call_of_check hc target, .call _ rfl hc⟩
    | some r => exact ⟨_, exec_call_of_check_some hc target, .memoryFault _ _ r (.inr (.inl rfl))⟩
  | ret =>
    cases hc : s.check .pop s.sp 4 with
    | none => exact ⟨_, exec_ret_of_check hc, .ret _ rfl⟩
    | some r => exact ⟨_, exec_ret_of_check_some hc, .memoryFault _ _ r (.inr (.inr rfl))⟩
  | syscall => exact ⟨_, rfl, .syscall _ rfl (syscallEffect_effect _ s)⟩
  | halt => exact ⟨_, rfl, .halt⟩
  | xchg | faddAtomic => exact ⟨_, rfl, readModifyWrite_effect fun hc _ => .swap _ _ _ _ hc⟩
  | cas =>
    refine ⟨_, rfl, readModifyWrite_effect fun hc old => ?_⟩
    split
    · exact .swap _ _ _ _ hc
    · exact .register _ _

theorem effect_of_exec {i : Instr} {s t : State} (h : exec i s = .next t) : Effect i s t := by
  obtain ⟨u, hu, heffect⟩ := exec_effect i s
  obtain rfl : t = u := Host.Outcome.next.inj (h.symm.trans hu)
  exact heffect

/-! ### What an instruction leaves unchanged -/

theorem SyscallEffect.writesAllowed {s t : State} (h : SyscallEffect s t) (hm : memWf s.mem) :
    WritesAllowed s.pages s.mem t.mem := by
  cases h with
  | exit | sleep | answer | alloc => exact .refl _ hm
  | environment o =>
    cases o with
    | result v reads writes => exact writesAllowed_applyWrites hm writes
    | switch ctx => exact .refl _ hm

theorem Effect.writesAllowed {i : Instr} {s t : State} (h : Effect i s t) (hm : memWf s.mem) :
    WritesAllowed s.pages s.mem t.mem := by
  cases h with
  | call t hop hc => exact writesAllowed_storeWord hm rfl hc _
  | swap a v rd w hc => exact writesAllowed_storeWord hm rfl hc _
  | syscall t hop ht => exact ht.writesAllowed hm
  | _ => exact .refl _ hm

/-- Settles O52. -/
theorem onlyFlagWritersChangeFlags : Obligations.OnlyFlagWritersChangeFlags := by
  intro i s t hexec hne
  cases effect_of_exec hexec with
  | flags f hop => exact hop
  | registerAndFlags rd v f hop => exact hop
  | divisionFault which rd rs1 rs2 hi => exact absurd rfl hne
  | syscall t hi ht => subst hi; decide
  | _ => exact absurd rfl hne

/-- Settles O53. -/
theorem stackPointerMovesByFour : Obligations.StackPointerMovesByFour := by
  intro i s t hi hexec
  cases effect_of_exec hexec with
  | call t hop hc => exact ⟨rfl, .inr (.inl ⟨hop, rfl⟩)⟩
  | ret t hop => exact ⟨rfl, .inr (.inr ⟨hop, rfl⟩)⟩
  | syscall t hop ht => exact absurd hop hi
  | _ => exact ⟨rfl, .inl rfl⟩

/-- What the host alone controls is kept: the page table, the enables, the handlers, the debugger inputs, the parameters and
the heap's place; and no vector becomes pending (R52 to R54, R57, R59). -/
structure HostStateKept (s t : State) : Prop where
  pages : t.pages = s.pages
  irqGlobalEnable : t.irqGlobalEnable = s.irqGlobalEnable
  dbgEnabled : t.dbgEnabled = s.dbgEnabled
  singleStep : t.singleStep = s.singleStep
  breakpoints : t.breakpoints = s.breakpoints
  params : t.params = s.params
  heapBase : t.heapBase = s.heapBase
  heapSize : t.heapSize = s.heapSize
  vec (i : Irq) : t.vec[i].handlerAddr = s.vec[i].handlerAddr ∧ t.vec[i].enabled = s.vec[i].enabled ∧
    (t.vec[i].pending = true → s.vec[i].pending = true)

/-- A state that has each of these fields, and the whole of the vectors, from the state before. -/
theorem HostStateKept.of_eq {s t : State}
    (h : t = { t with
      pages := s.pages, irqGlobalEnable := s.irqGlobalEnable, dbgEnabled := s.dbgEnabled, singleStep := s.singleStep,
      breakpoints := s.breakpoints, params := s.params, heapBase := s.heapBase, heapSize := s.heapSize, vec := s.vec }) :
    HostStateKept s t where
  pages := by rw [h]
  irqGlobalEnable := by rw [h]
  dbgEnabled := by rw [h]
  singleStep := by rw [h]
  breakpoints := by rw [h]
  params := by rw [h]
  heapBase := by rw [h]
  heapSize := by rw [h]
  vec i := by
    have hvec : t.vec = s.vec := by rw [h]
    rw [hvec]
    exact ⟨rfl, rfl, id⟩

theorem HostStateKept.trans {s t u : State} (h₁ : HostStateKept s t) (h₂ : HostStateKept t u) : HostStateKept s u where
  pages := h₂.pages.trans h₁.pages
  irqGlobalEnable := h₂.irqGlobalEnable.trans h₁.irqGlobalEnable
  dbgEnabled := h₂.dbgEnabled.trans h₁.dbgEnabled
  singleStep := h₂.singleStep.trans h₁.singleStep
  breakpoints := h₂.breakpoints.trans h₁.breakpoints
  params := h₂.params.trans h₁.params
  heapBase := h₂.heapBase.trans h₁.heapBase
  heapSize := h₂.heapSize.trans h₁.heapSize
  vec i :=
    have ⟨haddr₁, henabled₁, hpending₁⟩ := h₁.vec i
    have ⟨haddr₂, henabled₂, hpending₂⟩ := h₂.vec i
    ⟨haddr₂.trans haddr₁, henabled₂.trans henabled₁, hpending₁ ∘ hpending₂⟩

theorem SyscallEffect.hostStateKept {s t : State} (h : SyscallEffect s t) : HostStateKept s t := by
  cases h with
  | exit | sleep | answer | alloc => exact .of_eq rfl
  | environment o => cases o <;> exact .of_eq rfl

theorem Effect.hostStateKept {i : Instr} {s t : State} (h : Effect i s t) : HostStateKept s t := by
  cases h with
  | syscall t hop ht => exact ht.hostStateKept
  | _ => exact .of_eq rfl

theorem SyscallEffect.count_result {s t : State} (h : SyscallEffect s t) :
    t.instructionCount = s.instructionCount ∧ t.result = s.result := by
  cases h with
  | exit | sleep | answer | alloc => exact ⟨rfl, rfl⟩
  | environment o => cases o <;> exact ⟨rfl, rfl⟩

/-- An instruction counts nothing itself: that is left to the end of the step. -/
theorem Effect.instructionCount {i : Instr} {s t : State} (h : Effect i s t) :
    t.instructionCount = s.instructionCount := by
  cases h with
  | syscall t hop ht => exact ht.count_result.1
  | _ => rfl

/-- An instruction that raises does nothing else, but for the rd that DIV and MOD zero. -/
theorem Effect.of_fault {i : Instr} {s t : State} (h : Effect i s t) (hs : s.result ≠ some .fault)
    (ht : t.result = some .fault) :
    (∃ k a r, (k = .rmw ∨ k = .push ∨ k = .pop) ∧ t = s.raise (.memory k a 4 r)) ∨
    (∃ which rd rs1 rs2, (i = .div rd rs1 rs2 ∨ i = .mod rd rs1 rs2) ∧ t = (s.setReg rd 0).raise (.arithmetic which)) := by
  cases h with
  | memoryFault k a r hk => exact .inl ⟨k, a, r, hk, rfl⟩
  | divisionFault which rd rs1 rs2 hi => exact .inr ⟨which, rd, rs1, rs2, hi, rfl⟩
  | syscall t hop heffect => exact absurd (heffect.count_result.2 ▸ ht) hs
  | _ => exact absurd ht hs

/-! ### The parts of a step -/

/-- The step runs an instruction: no break request, not halted, not at an enabled breakpoint (R401). -/
def Running (s : State) : Prop := s.breakRequest = false ∧ s.halted = false ∧ s.atBreakpoint = false

/-- The state in which the instruction runs: the step's signals cleared and the word at pc kept. -/
def fetched (s : State) : State := s.begun.setIr (s.loadWord s.pc)

/-- The states that the dispatcher leads to where it raises nothing (R433). -/
inductive Dispatched (s : State) : State → Prop where
  | kept : Dispatched s s
  | entered (i : Irq) (hc : s.check (.irqPush i) (s.sp - 4) 4 = none) :
      Dispatched s (((s.storeWord (s.sp - 4) s.pc).setSp (s.sp - 4)).enterHandler i)

/-- Every state that a step can lead to (R401, R423). -/
inductive StepTo (s : State) : State → Prop where
  | breakRequest (hb : s.breakRequest = true) : StepTo s (s.takeBreak.ended .halted)
  | halted (hb : s.breakRequest = false) (hh : s.halted = true) : StepTo s (s.ended .halted)
  | breakpoint (hb : s.breakRequest = false) (hh : s.halted = false) (hbp : s.atBreakpoint = true) :
      StepTo s (s.ended .paused)
  | fetchFault (hrun : Running s) (r : Reason) : StepTo s (s.begun.raise (.memory .fetch s.pc 4 r))
  | illegalOpcode (hrun : Running s) : StepTo s ((fetched s).raise .illegalOpcode)
  | fault (hrun : Running s) (i : Instr) (hi : decodeWord s.params.opcodeMap (s.loadWord s.pc) = .ok i) (v : State)
      (hv : Effect i (fetched s) v) (hresult : v.result = some .fault) : StepTo s v
  | halts (hrun : Running s) (i : Instr) (v : State) (hv : Effect i (fetched s) v) : StepTo s (v.retire.ended .halted)
  | retires (hrun : Running s) (i : Instr) (v d : State) (hv : Effect i (fetched s) v) (hd : Dispatched v.retire d) :
      StepTo s (d.ended (if d.singleStep then .paused else .continued))
  | pushFault (hrun : Running s) (i : Instr) (v : State) (hv : Effect i (fetched s) v) (irq : Irq) (a : Word) (r : Reason) :
      StepTo s (v.retire.raise (.memory (.irqPush irq) a 4 r))

@[simp] theorem retire_result (s : State) : s.retire.result = s.result := by
  simp [State.retire]

theorem concluded_of_fault {s : State} (h : s.result = some .fault) : s.concluded = s :=
  if_pos h

theorem concluded_of_ne_fault {s : State} (h : s.result ≠ some .fault) :
    s.concluded = s.ended (if s.singleStep then .paused else .continued) := by
  rcases concluded_cases s with ⟨hfault, -⟩ | ⟨-, heq⟩
  · exact absurd hfault h
  · exact heq

theorem Dispatched.result {s t : State} (h : Dispatched s t) : t.result = s.result := by
  cases h <;> rfl

/-- The dispatcher leads to one of its states, or its push raises. -/
theorem dispatchIrq_dispatched (s : State) :
    Dispatched s (dispatchIrq s) ∨ ∃ i a r, dispatchIrq s = s.raise (.memory (.irqPush i) a 4 r) := by
  rcases dispatchIrq_cases s with ⟨heq, -⟩ | ⟨i, -, -, ⟨r, -, heq⟩ | ⟨hc, heq⟩⟩
  · exact .inl (heq.symm ▸ .kept)
  · exact .inr ⟨i, _, r, heq⟩
  · exact .inl (heq.symm ▸ .entered i hc)

/-- The end of a step after an instruction of the running state. -/
theorem stepTo_finishStep {s v : State} {i : Instr} (hrun : Running s)
    (hi : decodeWord s.params.opcodeMap (s.loadWord s.pc) = .ok i) (hv : Effect i (fetched s) v) :
    StepTo s (finishStep v) := by
  rcases finishStep_cases v with ⟨hfault, heq⟩ | ⟨-, -, heq⟩ | ⟨hne, -, heq⟩ <;> rw [heq]
  · exact .fault hrun i hi v hv hfault
  · exact .halts hrun i v hv
  · rcases dispatchIrq_dispatched v.retire with hd | ⟨irq, a, r, hraise⟩
    · have hresult : (dispatchIrq v.retire).result ≠ some .fault := by rwa [hd.result, retire_result]
      exact concluded_of_ne_fault hresult ▸ .retires hrun i v _ hv hd
    · rw [hraise, concluded_of_fault rfl]
      exact .pushFault hrun i v hv irq a r

/-- A step that fetches runs: nothing before the fetch ended it. -/
theorem running_of_stepIdle_none {s : State} (h : stepIdle s = none) : Running s := by
  rcases stepIdle_cases s with ⟨-, heq⟩ | ⟨-, -, heq⟩ | ⟨-, -, -, heq⟩ | ⟨hb, hh, hbp, -⟩
  iterate 3 exact absurd (h.symm.trans heq) (by simp)
  exact ⟨hb, hh, hbp⟩

theorem stepTo_of_stepIdle {s t : State} (h : stepIdle s = some t) : StepTo s t := by
  rcases stepIdle_cases s with ⟨hb, heq⟩ | ⟨hb, hh, heq⟩ | ⟨hb, hh, hbp, heq⟩ | ⟨-, -, -, heq⟩ <;>
    rw [h] at heq <;> cases heq
  · exact .breakRequest hb
  · exact .halted hb hh
  · exact .breakpoint hb hh hbp

theorem stepTo_of_fetchDecode_error {s t : State} (hrun : Running s) (h : fetchDecode s = .error t) : StepTo s t := by
  rcases fetchDecode_cases s with ⟨r, -, heq⟩ | ⟨-, -, heq⟩ | ⟨i, -, -, heq⟩ <;> rw [h] at heq <;> cases heq
  · exact .fetchFault hrun r
  · exact .illegalOpcode hrun

theorem fetchDecode_ok {s u : State} {i : Instr} (h : fetchDecode s = .ok (i, u)) :
    u = fetched s ∧ decodeWord s.params.opcodeMap (s.loadWord s.pc) = .ok i := by
  rcases fetchDecode_cases s with ⟨r, -, heq⟩ | ⟨-, -, heq⟩ | ⟨i, -, hi, heq⟩ <;> rw [h] at heq <;> cases heq
  exact ⟨rfl, hi⟩

/-- Every step leads to one of the states listed. -/
theorem stepTo_of_step {s t : State} (h : step s = .next t) : StepTo s t := by
  rcases step_next_cases h with hidle | ⟨hnone, hfetch⟩ | ⟨i, u, v, hnone, hfetch, hexec, rfl⟩
  · exact stepTo_of_stepIdle hidle
  · exact stepTo_of_fetchDecode_error (running_of_stepIdle_none hnone) hfetch
  · obtain ⟨rfl, hi⟩ := fetchDecode_ok hfetch
    exact stepTo_finishStep (running_of_stepIdle_none hnone) hi (effect_of_exec hexec)

/-! ### What a step leaves unchanged -/

@[simp] theorem retire_mem (s : State) : s.retire.mem = s.mem := by
  simp [State.retire]

@[simp] theorem retire_pages (s : State) : s.retire.pages = s.pages := by
  simp [State.retire]

theorem Dispatched.writesAllowed {s t : State} (h : Dispatched s t) (hm : memWf s.mem) :
    WritesAllowed s.pages s.mem t.mem := by
  cases h with
  | kept => exact .refl _ hm
  | entered i hc => exact writesAllowed_storeWord hm rfl hc _

/-- A step writes memory by its instruction and by the push of the dispatcher alone, each after its check. -/
theorem StepTo.writesAllowed {s t : State} (h : StepTo s t) (hm : memWf s.mem) : WritesAllowed s.pages s.mem t.mem := by
  cases h with
  | breakRequest | halted | breakpoint | fetchFault | illegalOpcode => exact .refl _ hm
  | fault hrun i hi v hv => exact hv.writesAllowed hm
  | halts hrun i v hv =>
    rw [State.ended_mem, retire_mem]
    exact hv.writesAllowed hm
  | pushFault hrun i v hv =>
    rw [State.raise_mem, retire_mem]
    exact hv.writesAllowed hm
  | retires hrun i v d hv hd =>
    have hexec : WritesAllowed s.pages s.mem v.mem := hv.writesAllowed hm
    have hpages : v.retire.pages = s.pages := (retire_pages v).trans hv.hostStateKept.pages
    have hpush : WritesAllowed v.retire.pages v.retire.mem d.mem := hd.writesAllowed (by rw [retire_mem]; exact hexec.1)
    rw [hpages, retire_mem] at hpush
    exact hexec.trans hpush

/-- Settles O36. -/
theorem stepWritesOnlyWritablePages : Obligations.StepWritesOnlyWritablePages := by
  rintro s t ⟨hm, -⟩ hstep
  obtain ⟨-, hwrites⟩ := (stepTo_of_step hstep).writesAllowed hm
  exact hwrites

theorem retire_hostStateKept (s : State) : HostStateKept s s.retire := by
  rw [State.retire, State.incrementPc]
  split <;> exact .of_eq rfl

theorem ended_hostStateKept (s : State) (r : StepResult) : HostStateKept s (s.ended r) :=
  .of_eq rfl

theorem raise_hostStateKept (s : State) (e : Exc) : HostStateKept s (s.raise e) :=
  .of_eq rfl

/-- Entering a handler clears one pending bit and no other bit of a vector. -/
theorem Dispatched.hostStateKept {s t : State} (h : Dispatched s t) : HostStateKept s t := by
  cases h with
  | kept => exact .of_eq rfl
  | entered i hc =>
    refine ⟨rfl, rfl, rfl, rfl, rfl, rfl, rfl, rfl, fun j => ?_⟩
    have hvec : (((s.storeWord (s.sp - 4) s.pc).setSp (s.sp - 4)).enterHandler i).vec =
        s.vec.set i { s.vec[i] with pending := false } := rfl
    rw [hvec, Fin.getElem_fin, Vector.getElem_set]
    split
    · next hij =>
      obtain rfl : i = j := Fin.ext hij
      exact ⟨rfl, rfl, fun hfalse => absurd hfalse Bool.false_ne_true⟩
    · exact ⟨rfl, rfl, id⟩

theorem fetched_hostStateKept (s : State) : HostStateKept s (fetched s) :=
  .of_eq rfl

theorem retired_hostStateKept {s v : State} {i : Instr} (hv : Effect i (fetched s) v) : HostStateKept s v.retire :=
  ((fetched_hostStateKept s).trans hv.hostStateKept).trans (retire_hostStateKept v)

theorem StepTo.hostStateKept {s t : State} (h : StepTo s t) : HostStateKept s t := by
  cases h with
  | breakRequest | halted | breakpoint | fetchFault | illegalOpcode =>
    exact .of_eq rfl
  | fault hrun i hi v hv => exact (fetched_hostStateKept s).trans hv.hostStateKept
  | halts hrun i v hv => exact (retired_hostStateKept hv).trans (ended_hostStateKept _ _)
  | pushFault hrun i v hv => exact (retired_hostStateKept hv).trans (raise_hostStateKept _ _)
  | retires hrun i v d hv hd => exact ((retired_hostStateKept hv).trans hd.hostStateKept).trans (ended_hostStateKept _ _)

/-- Settles O54. -/
theorem stepLeavesHostControlledState : Obligations.StepLeavesHostControlledState := fun _ _ hstep =>
  have hkept := (stepTo_of_step hstep).hostStateKept
  ⟨hkept.pages, hkept.irqGlobalEnable, hkept.dbgEnabled, hkept.singleStep, hkept.breakpoints, hkept.params,
    hkept.heapBase, hkept.heapSize, hkept.vec⟩

/-- Settles O55: memory by the writes that are allowed, the breakpoints by what the host alone controls. -/
theorem stepKeepsInvariant : Obligations.StepKeepsInvariant := by
  rintro s t ⟨hm, hbreakpoints⟩ hstep
  have hto := stepTo_of_step hstep
  obtain ⟨hmem, -⟩ := hto.writesAllowed hm
  refine ⟨hmem, ?_⟩
  rw [State.breakpointsOk, hto.hostStateKept.breakpoints]
  exact hbreakpoints

end Sys2Proof.Laws
end

section
/-! SUPPORT. The control FSM: the step as an equation in each of its cases, and what its result says about it. -/

namespace Sys2Proof.Laws

open Sys2Proof.Machine

/-! ### The step as an equation (R401) -/

theorem step_of_stepIdle {s t : State} (h : stepIdle s = some t) : step s = .next t := by
  simp only [step, h]

theorem stepIdle_of_running {s : State} (h : Running s) : stepIdle s = none := by
  obtain ⟨hb, hh, hbp⟩ := h
  simp [stepIdle, hb, hh, hbp]

theorem step_of_fetchDecode_error {s t : State} (hrun : Running s) (h : fetchDecode s = .error t) : step s = .next t := by
  simp only [step, stepIdle_of_running hrun, h]

/-- Where the check of the fetch passes, fetch and decode are the decoder on the word at pc. -/
theorem fetchDecode_of_check {s : State} (hc : s.check .fetch s.pc 4 = none) {i : Instr}
    (hi : decodeWord s.params.opcodeMap (s.loadWord s.pc) = .ok i) : fetchDecode s = .ok (i, fetched s) := by
  rcases fetchDecode_cases s with ⟨r, hr, -⟩ | ⟨-, hnone, -⟩ | ⟨j, -, hj, heq⟩
  · exact absurd (hr.symm.trans hc) (by simp)
  · exact absurd ((decodeWord_of_lookupOp_none hnone).symm.trans hi) (by simp)
  · obtain rfl : i = j := Except.ok.inj (hi.symm.trans hj)
    exact heq

/-- A running step whose word decodes is the instruction and then the end of the step. -/
theorem step_of_decode {s u : State} {i : Instr} (hrun : Running s) (hc : s.check .fetch s.pc 4 = none)
    (hi : decodeWord s.params.opcodeMap (s.loadWord s.pc) = .ok i) (hu : exec i (fetched s) = .next u) :
    step s = .next (finishStep u) := by
  simp only [step, stepIdle_of_running hrun, fetchDecode_of_check hc hi, hu]

theorem decodeBytes_memReadBytes (m : OpcodeMap) (s : State) (a : Word) :
    decodeBytes m (memReadBytes s.mem a.toNat 4) = (decodeWord m (s.loadWord a)).map fun i => (i, []) := by
  have hbytes : memReadBytes s.mem a.toNat 4 =
      [s.byte a.toNat, s.byte (a.toNat + 1), s.byte (a.toNat + 2), s.byte (a.toNat + 3)] := rfl
  simp only [hbytes, decodeBytes, State.loadWord]
  cases decodeWord m _ <;> rfl

theorem atBreakpoint_iff (s : State) : s.atBreakpoint = true ↔ s.dbgEnabled = true ∧ s.pc ∈ s.breakpoints := by
  simp [State.atBreakpoint]

theorem atBreakpoint_eq_false_iff (s : State) :
    s.atBreakpoint = false ↔ ¬ (s.dbgEnabled = true ∧ s.pc ∈ s.breakpoints) := by
  rw [← atBreakpoint_iff, Bool.not_eq_true]

/-- Settles O42. -/
theorem stepRunsTheDecodedInstruction : Obligations.StepRunsTheDecodedInstruction := by
  intro s i hb hh hbp hc hbytes
  have hrun : Running s := ⟨hb, hh, (atBreakpoint_eq_false_iff s).2 fun ⟨henabled, hpc⟩ => hbp henabled hpc⟩
  have hi : decodeWord s.params.opcodeMap (s.loadWord s.pc) = .ok i := by
    rw [decodeBytes_memReadBytes] at hbytes
    cases hdecode : decodeWord s.params.opcodeMap (s.loadWord s.pc) with
    | error e => simp [hdecode, Except.map] at hbytes
    | ok j => simpa [hdecode, Except.map] using hbytes
  obtain ⟨u, hu, -⟩ := exec_effect i (fetched s)
  have hexec : exec i { s with pcWritten := false, result := none, ir := s.loadWord s.pc } = .next u := hu
  rw [step_of_decode hrun hc hi hu, hexec]

/-- Settles O46: before the fetch, at the fetch and after the instruction a step has a result, and every instruction answers a
next state. -/
theorem everyStepReturnsAResult : Obligations.EveryStepReturnsAResult := by
  intro s
  have hnext : ∃ t, step s = .next t := by
    unfold step
    cases stepIdle s with
    | some t => exact ⟨t, rfl⟩
    | none =>
      cases fetchDecode s with
      | error t => exact ⟨t, rfl⟩
      | ok p =>
        obtain ⟨u, hu, -⟩ := exec_effect p.1 p.2
        exact ⟨finishStep u, by simp only [hu]⟩
  obtain ⟨t, ht⟩ := hnext
  have hresult : ∃ r, t.result = some r := by
    cases stepTo_of_step ht with
    | fault hrun i hi v hv hfault => exact ⟨_, hfault⟩
    | _ => exact ⟨_, rfl⟩
  obtain ⟨r, hr⟩ := hresult
  exact ⟨t, r, ht, hr⟩

/-! ### Idle steps and faults of the fetch (R402 to R408) -/

theorem stepIdle_of_breakRequest {s : State} (hb : s.breakRequest = true) :
    stepIdle s = some (s.takeBreak.ended .halted) :=
  if_pos hb

theorem stepIdle_of_halted {s : State} (hb : s.breakRequest = false) (hh : s.halted = true) :
    stepIdle s = some (s.ended .halted) := by
  simp [stepIdle, hb, hh]

theorem stepIdle_of_atBreakpoint {s : State} (hb : s.breakRequest = false) (hh : s.halted = false)
    (hbp : s.atBreakpoint = true) : stepIdle s = some (s.ended .paused) := by
  simp [stepIdle, hb, hh, hbp]

/-- Settles O44. -/
theorem idleStepsRunNoInstruction : Obligations.IdleStepsRunNoInstruction := fun s =>
  ⟨fun hb => step_of_stepIdle (stepIdle_of_breakRequest hb),
    fun hb hh => step_of_stepIdle (stepIdle_of_halted hb hh),
    fun hb hh henabled hpc =>
      step_of_stepIdle (stepIdle_of_atBreakpoint hb hh ((atBreakpoint_iff s).2 ⟨henabled, hpc⟩))⟩

/-- Settles O45. -/
theorem fetchAndDecodeFaultsAreRecorded : Obligations.FetchAndDecodeFaultsAreRecorded := by
  refine ⟨rfl, rfl, rfl, fun s hb hh hbp => ?_⟩
  have hrun : Running s := ⟨hb, hh, hbp⟩
  refine ⟨fun r hr => ?_, fun hc hnone => ?_⟩
  · rcases fetchDecode_cases s with ⟨r', hr', heq⟩ | ⟨hpass, -⟩ | ⟨_, hpass, -⟩
    · obtain rfl : r = r' := Option.some.inj (hr.symm.trans hr')
      exact step_of_fetchDecode_error hrun heq
    all_goals exact absurd (hr.symm.trans hpass) (by simp)
  · rcases fetchDecode_cases s with ⟨r, hr, -⟩ | ⟨-, -, heq⟩ | ⟨i, -, hi, -⟩
    · exact absurd (hr.symm.trans hc) (by simp)
    · exact step_of_fetchDecode_error hrun heq
    · exact absurd ((decodeWord_of_lookupOp_none hnone).symm.trans hi) (by simp)

/-! ### The end of a step (R410, R411) -/

theorem retire_eq (s : State) :
    s.retire = { s with
      pc := if s.pcWritten then s.pc else s.pc + 4,
      instructionCount := s.instructionCount + 1, cycleCount := s.cycleCount + 1 } := by
  rw [State.retire, State.incrementPc]
  split <;> rfl

theorem finishStep_of_fault {s : State} (h : s.result = some .fault) : finishStep s = s :=
  if_pos h

theorem finishStep_of_halted {s : State} (h : s.result ≠ some .fault) (hh : s.halted = true) :
    finishStep s = s.retire.ended .halted := by
  rcases finishStep_cases s with ⟨hfault, -⟩ | ⟨-, -, heq⟩ | ⟨-, hrun, -⟩
  · exact absurd hfault h
  · exact heq
  · exact absurd (hh.symm.trans hrun) (by simp)

theorem finishStep_of_not_halted {s : State} (h : s.result ≠ some .fault) (hh : s.halted = false) :
    finishStep s = (dispatchIrq s.retire).concluded := by
  rcases finishStep_cases s with ⟨hfault, -⟩ | ⟨-, hhalted, -⟩ | ⟨-, -, heq⟩
  · exact absurd hfault h
  · exact absurd (hh.symm.trans hhalted) (by simp)
  · exact heq

theorem dispatchIrq_singleStep (s : State) : (dispatchIrq s).singleStep = s.singleStep := by
  rcases dispatchIrq_dispatched s with hd | ⟨i, a, r, heq⟩
  · exact hd.hostStateKept.singleStep
  · rw [heq, State.raise_singleStep]

/-- With the global enable off or no vector ready, the dispatcher changes nothing. -/
theorem dispatchIrq_of_not_ready {s : State} (h : s.irqGlobalEnable = false ∨ ∀ i, s.ready i = false) :
    dispatchIrq s = s := by
  rcases dispatchIrq_cases s with ⟨heq, -⟩ | ⟨i, hg, hv, -⟩
  · exact heq
  · obtain ⟨hready, -⟩ := readyVector_some hv
    rcases h with hoff | hnone
    · exact absurd (hg.symm.trans hoff) (by simp)
    · exact absurd (hready.symm.trans (hnone i)) (by simp)

/-- Settles O43. -/
theorem retireAdvancesPcAndCounters : Obligations.RetireAdvancesPcAndCounters := by
  intro u r
  have hr : u.retire = r := retire_eq u
  refine ⟨finishStep_of_fault, fun hne hh => ?_, fun hne hh => ?_⟩
  · rw [finishStep_of_halted hne hh, hr]
    rfl
  · have hsingle : (dispatchIrq r).singleStep = u.singleStep := dispatchIrq_singleStep r
    rw [finishStep_of_not_halted hne hh, hr]
    refine ⟨concluded_of_fault, fun hdne => ?_, fun hquiet => ?_⟩
    · rw [concluded_of_ne_fault hdne, hsingle]
      rfl
    · rw [dispatchIrq_of_not_ready (s := r) hquiet]
      exact concluded_of_ne_fault (s := r) hne

/-- Settles O14. -/
theorem haltRetiresAndReturnsHalted : Obligations.HaltRetiresAndReturnsHalted := by
  refine fun s => ⟨rfl, fun hb hh hbp hc hi => ?_⟩
  have hexec : exec .halt (fetched s) = .next { fetched s with halted := true } := rfl
  rw [step_of_decode ⟨hb, hh, hbp⟩ hc hi hexec, finishStep_of_halted (by simp [fetched]) rfl, retire_eq]
  rfl

/-! ### What the result of a step says (R413, R445, R471) -/

@[simp] theorem retire_instructionCount (s : State) : s.retire.instructionCount = s.instructionCount + 1 := by
  simp [State.retire]

theorem Dispatched.instructionCount {s t : State} (h : Dispatched s t) : t.instructionCount = s.instructionCount := by
  cases h <;> rfl

theorem retired_instructionCount {i : Instr} {s v : State} (hv : Effect i (fetched s) v) :
    v.retire.instructionCount = s.instructionCount + 1 := by
  rw [retire_instructionCount, hv.instructionCount]
  rfl

/-- The fault of an instruction's own access has not the kind of a dispatch push. -/
theorem code_ne_irqPush {k : AccessKind} (hk : k = .rmw ∨ k = .push ∨ k = .pop) : k.code ≠ 7 := by
  rcases hk with rfl | rfl | rfl <;> decide

theorem Division.code_ne_irqPush (d : Division) : d.code ≠ 7 := by
  cases d <;> decide

theorem memoryCause_ne_arithmetic : (1 : Byte) ≠ 2 := by
  decide

/-- Settles O47. -/
theorem faultsArePrecise : Obligations.FaultsArePrecise := by
  intro s t hstep hfault
  cases stepTo_of_step hstep with
  | breakRequest | halted | breakpoint | halts => cases hfault
  | retires hrun i v d => cases hsingle : d.singleStep <;> simp [hsingle] at hfault
  | fetchFault hrun r =>
    exact ⟨fun _ => ⟨rfl, fun _ => rfl, fun h => absurd h memoryCause_ne_arithmetic⟩,
      fun h => absurd h (show (1 : Byte) ≠ 7 by decide)⟩
  | illegalOpcode hrun =>
    exact ⟨fun _ => ⟨rfl, fun _ => rfl, fun h => absurd h (show (3 : Byte) ≠ 2 by decide)⟩,
      fun h => absurd h (show (11 : Byte) ≠ 7 by decide)⟩
  | pushFault hrun i v hv irq a r =>
    exact ⟨fun h => absurd rfl h, fun _ => ⟨retired_instructionCount hv, rfl, rfl⟩⟩
  | fault hrun i hi v hv hresult =>
    rcases hv.of_fault (by simp [fetched]) hfault with ⟨k, a, r, hk, rfl⟩ | ⟨which, rd, rs1, rs2, hdiv, rfl⟩
    · exact ⟨fun _ => ⟨rfl, fun _ => rfl, fun h => absurd h memoryCause_ne_arithmetic⟩,
        fun h => absurd h (code_ne_irqPush hk)⟩
    · refine ⟨fun _ => ⟨rfl, fun h => absurd rfl h, fun _ => ⟨rd, rs1, rs2, rfl, ?_⟩⟩, fun h => ?_⟩
      · rcases hdiv with rfl | rfl
        · exact .inl hi
        · exact .inr hi
      · exact absurd h (Division.code_ne_irqPush which)

theorem Effect.fault_kind_ne {i : Instr} {s v : State} (hv : Effect i (fetched s) v) (h : v.result = some .fault) :
    v.faultInfo.kind ≠ 7 := by
  rcases hv.of_fault (by simp [fetched]) h with ⟨k, a, r, hk, rfl⟩ | ⟨which, rd, rs1, rs2, -, rfl⟩
  · exact code_ne_irqPush hk
  · exact Division.code_ne_irqPush which

/-- Settles O48. -/
theorem instructionCountCountsRetiredSteps : Obligations.InstructionCountCountsRetiredSteps := by
  intro s t hstep
  cases stepTo_of_step hstep with
  | breakRequest hb => exact ⟨fun ⟨hnot, _⟩ => absurd (hb.symm.trans hnot) (by simp), fun _ => rfl⟩
  | halted hb hh => exact ⟨fun ⟨_, hnot⟩ => absurd (hh.symm.trans hnot) (by simp), fun _ => rfl⟩
  | breakpoint hb hh hbp => exact ⟨fun hnot => absurd ((atBreakpoint_iff s).1 hbp) hnot, fun _ => rfl⟩
  | fetchFault hrun r => exact ⟨fun h => absurd h (show (1 : Byte) ≠ 7 by decide), fun _ => rfl⟩
  | illegalOpcode hrun => exact ⟨fun h => absurd h (show (11 : Byte) ≠ 7 by decide), fun _ => rfl⟩
  | fault hrun i hi v hv hresult =>
    have hcount : t.instructionCount = s.instructionCount := hv.instructionCount
    intro retired
    have hnot : ¬ retired := by
      simp only [retired, hresult]
      exact hv.fault_kind_ne hresult
    exact ⟨fun h => absurd h hnot, fun _ => hcount⟩
  | halts hrun i v hv =>
    obtain ⟨hb, hh, -⟩ := hrun
    exact ⟨fun _ => retired_instructionCount hv, fun hnot => absurd ⟨hb, hh⟩ hnot⟩
  | retires hrun i v d hv hd =>
    obtain ⟨-, -, hbp⟩ := hrun
    have hcount : d.instructionCount = s.instructionCount + 1 := hd.instructionCount.trans (retired_instructionCount hv)
    refine ⟨fun _ => hcount, fun hnot => absurd ?_ hnot⟩
    cases d.singleStep
    · trivial
    · exact (atBreakpoint_eq_false_iff s).1 hbp
  | pushFault hrun i v hv irq a r => exact ⟨fun _ => retired_instructionCount hv, fun hnot => absurd rfl hnot⟩

/-- A halted step runs nothing, so it stays halted. -/
theorem StepTo.of_halted {s t : State} (h : StepTo s t) (hh : s.halted = true) :
    t.halted = true ∧ t.result = some .halted := by
  cases h with
  | breakRequest hb => exact ⟨rfl, rfl⟩
  | halted hb => exact ⟨hh, rfl⟩
  | breakpoint hb hrun => exact absurd (hh.symm.trans hrun) (by simp)
  | fetchFault hrun | illegalOpcode hrun | fault hrun | halts hrun | retires hrun | pushFault hrun =>
    obtain ⟨-, hnot, -⟩ := hrun
    exact absurd (hh.symm.trans hnot) (by simp)

/-! ### The run port (R412) -/

/-- Settles O60. -/
theorem runReturnsByStepResult : Obligations.RunReturnsByStepResult := by
  intro budget s t hstep
  refine ⟨fun h => ?_, fun h => ?_, fun h => ?_, fun h => ?_⟩ <;> simp only [run, hstep, h, runReturns, allOnes]

end Sys2Proof.Laws
end

section
/-! SUPPORT. Binary32 arithmetic: the value of a pattern with its sign changed, the operations by the values of their
operands, the order of values, and the conversions to and from integers. -/

namespace Sys2Proof.Laws

open Sys2Proof.Machine

/-! ### NaN results (R330 to R334) -/

theorem toNat_and_fractionMask (raw : Word) : (raw &&& 0x007FFFFF).toNat = (raw.extractLsb' 0 23).toNat := by
  calc (raw &&& 0x007FFFFF).toNat = raw.toNat &&& (2 ^ 23 - 1) := BitVec.toNat_and _ _
    _ = raw.toNat % 2 ^ 23 := Nat.and_two_pow_sub_one_eq_mod _ _
    _ = (raw.extractLsb' 0 23).toNat := by simp [BitVec.extractLsb'_toNat]

/-- Bits set in a field stay set. -/
theorem extractLsb'_or_of_ones {raw mask : Word} {lo n : Nat} (h : mask.extractLsb' lo n = BitVec.allOnes n) :
    (raw ||| mask).extractLsb' lo n = BitVec.allOnes n := by
  rw [BitVec.extractLsb'_or, h, BitVec.or_allOnes]

/-- Whatever is drawn, its pattern has exponent all ones and a nonzero fraction. -/
theorem nanPattern_fields (raw : Word) :
    (nanPattern raw).extractLsb' 23 8 = 0xFF#8 ∧ (nanPattern raw).extractLsb' 0 23 ≠ 0#23 := by
  unfold nanPattern
  split
  · refine ⟨extractLsb'_or_of_ones (by decide), fun hzero => ?_⟩
    rw [BitVec.extractLsb'_or, BitVec.or_eq_zero_iff] at hzero
    exact absurd hzero.2 (by decide)
  · next hne =>
    refine ⟨extractLsb'_or_of_ones (by decide), fun hzero => hne (BitVec.eq_of_toNat_eq ?_)⟩
    rw [BitVec.extractLsb'_or, BitVec.or_eq_zero_iff] at hzero
    rw [toNat_and_fractionMask, hzero.1]
    rfl

/-- Settles O22: the four instructions differ in their operation alone. -/
theorem fpArithmeticWritesResultOrSomeNan : Obligations.FpArithmeticWritesResultOrSomeNan := by
  intro rd rs1 rs2 s i f hi
  have hexec : exec i s = .next (writeOrDraw rd s.nanDraw (f (s.reg rs1) (s.reg rs2)) s) := by
    simp only [List.mem_cons, List.not_mem_nil, or_false, Prod.mk.injEq] at hi
    rcases hi with ⟨rfl, rfl⟩ | ⟨rfl, rfl⟩ | ⟨rfl, rfl⟩ | ⟨rfl, rfl⟩ <;> rfl
  refine ⟨fun v hv => by rw [hexec, hv]; rfl, fun hnan => ?_⟩
  obtain ⟨hexp, hfrac⟩ := nanPattern_fields (Config.fpNan s.draws)
  exact ⟨s.nanDraw, hexp, hfrac, by rw [hexec, hnan]; rfl⟩

/-! ### The sign of a pattern (R330) -/

/-- A value with its sign changed. -/
def negateValue : Binary32 → Binary32
  | .nan => .nan
  | .inf s => .inf (!s)
  | .finite s m => .finite (!s) m

/-- Inverting bit 31 changes the sign and nothing else. -/
theorem valueOf_negate (w : Word) : valueOf (negate w) = negateValue (valueOf w) := by
  have hexp : exponentField (negate w) = exponentField w := by
    rw [exponentField, negate, BitVec.extractLsb'_xor]
    simp [exponentField]
  have hfrac : fractionField (negate w) = fractionField w := by
    rw [fractionField, negate, BitVec.extractLsb'_xor]
    simp [fractionField]
  have hsign : (negate w).getLsbD 31 = !w.getLsbD 31 := by
    rw [negate, BitVec.getLsbD_xor]
    simp
  rw [valueOf_eq_layout, valueOf_eq_layout, hexp, hfrac, hsign]
  split
  · split <;> rfl
  · rfl

theorem signed_not (neg : Bool) (u : Nat) : signed (!neg) u = -signed neg u := by
  cases neg <;> simp [signed]

/-! ### The four operations by the values of their operands (R331 to R334) -/

theorem fpAdd_eq_none_iff (a b : Word) :
    fpAdd a b = none ↔ valueOf a = .nan ∨ valueOf b = .nan ∨ ∃ s, valueOf a = .inf s ∧ valueOf b = .inf (!s) := by
  unfold fpAdd
  cases valueOf a with
  | nan => simp
  | inf s => cases valueOf b <;> cases s <;> simp
  | finite s m =>
    cases valueOf b with
    | finite t n =>
      simp only [reduceCtorEq, false_and, exists_false, or_self, iff_false]
      split <;> exact Option.some_ne_none _
    | _ => simp

theorem fpMul_eq_none_iff (a b : Word) :
    fpMul a b = none ↔ valueOf a = .nan ∨ valueOf b = .nan ∨
      (∃ s t, valueOf a = .inf s ∧ valueOf b = .finite t 0) ∨ ∃ s t, valueOf a = .finite s 0 ∧ valueOf b = .inf t := by
  unfold fpMul
  cases valueOf a <;> cases valueOf b <;> simp

theorem fpDiv_eq_none_iff (a b : Word) :
    fpDiv a b = none ↔ valueOf a = .nan ∨ valueOf b = .nan ∨
      (∃ s t, valueOf a = .finite s 0 ∧ valueOf b = .finite t 0) ∨ ∃ s t, valueOf a = .inf s ∧ valueOf b = .inf t := by
  unfold fpDiv
  cases valueOf a <;> cases valueOf b <;> simp [ite_eq_iff, and_comm]

/-- Settles O23: a difference is the sum with the second sign inverted. -/
theorem fpResultIsNanOnlyWhereInvalid : Obligations.FpResultIsNanOnlyWhereInvalid := by
  refine fun a b => ⟨fpAdd_eq_none_iff a b, ?_, fpMul_eq_none_iff a b, fpDiv_eq_none_iff a b⟩
  rw [fpSub, fpAdd_eq_none_iff, valueOf_negate]
  cases valueOf b <;> simp [negateValue]

theorem fpAdd_comm (a b : Word) : fpAdd a b = fpAdd b a := by
  unfold fpAdd
  cases valueOf a with
  | nan => cases valueOf b <;> rfl
  | inf s =>
    cases valueOf b with
    | inf t =>
      by_cases hst : s = t
      · rw [hst]
      · simp only [if_neg hst, if_neg (Ne.symm hst)]
    | _ => rfl
  | finite s m =>
    cases valueOf b with
    | finite t n => simp only [add_comm (signed s m), Bool.and_comm s]
    | _ => rfl

theorem fpMul_comm (a b : Word) : fpMul a b = fpMul b a := by
  unfold fpMul
  cases valueOf a <;> cases valueOf b <;> simp only [Nat.mul_comm, bne_comm]

theorem withSign_infMagnitude (neg : Bool) : withSign neg infMagnitude = if neg then 0xFF800000 else 0x7F800000 := by
  cases neg <;> rfl

theorem withSign_zero (neg : Bool) : withSign neg 0 = if neg then 0x80000000 else 0 := by
  cases neg <;> rfl

/-- The magnitude 0 rounds to the magnitude 0. -/
theorem roundToPattern_zero (neg : Bool) {d : Nat} (hd : 0 < d) : roundToPattern neg 0 d = withSign neg 0 := by
  simp [roundToPattern, roundMagnitude, roundHalfEven, hd, infMagnitude]

section Operands

variable {a b : Word} {p q : Bool} {m n : Nat}

theorem fpAdd_of_finite (ha : valueOf a = .finite p m) (hb : valueOf b = .finite q n) :
    fpAdd a b = if signed p m + signed q n = 0 then some (withSign (p && q) 0) else
      some (roundToPattern (decide (signed p m + signed q n < 0)) (signed p m + signed q n).natAbs 1) := by
  simp only [fpAdd, ha, hb]

theorem fpSub_of_finite (ha : valueOf a = .finite p m) (hb : valueOf b = .finite q n) :
    fpSub a b = if signed p m - signed q n = 0 then some (withSign (p && !q) 0) else
      some (roundToPattern (decide (signed p m - signed q n < 0)) (signed p m - signed q n).natAbs 1) := by
  have hneg : valueOf (negate b) = .finite (!q) n := by rw [valueOf_negate, hb]; rfl
  rw [fpSub, fpAdd_of_finite ha hneg, signed_not, sub_eq_add_neg]

theorem fpMul_of_finite (ha : valueOf a = .finite p m) (hb : valueOf b = .finite q n) :
    fpMul a b = some (roundToPattern (p != q) (m * n) oneUnits) := by
  simp only [fpMul, ha, hb]

theorem fpDiv_of_finite (ha : valueOf a = .finite p m) (hb : valueOf b = .finite q n) (hn : n ≠ 0) :
    fpDiv a b = some (roundToPattern (p != q) (m * oneUnits) n) := by
  simp only [fpDiv, ha, hb, if_neg hn]

theorem fpDiv_of_finite_zero (ha : valueOf a = .finite p m) (hb : valueOf b = .finite q 0) (hm : m ≠ 0) :
    fpDiv a b = some (withSign (p != q) infMagnitude) := by
  simp only [fpDiv, ha, hb, if_true, if_neg hm]

end Operands

/-- Settles O25: the operands are taken apart by their values; a difference is a sum with the second sign inverted. -/
theorem fpAddRoundsExactSumAndCommutes : Obligations.FpAddRoundsExactSumAndCommutes := by
  intro a b
  simp only [← withSign_infMagnitude, ← withSign_zero]
  have hone : 0 < oneUnits := Nat.two_pow_pos 149
  refine ⟨fpAdd_comm a b, fpMul_comm a b, fun p q m n ha hb => ⟨fun h => ?_, fun h => ?_, fun h => ?_, fun h => ?_,
    fun h => ?_, fun h => fpMul_of_finite ha hb, fun hm hn => ?_, fun hm hn => fpDiv_of_finite ha hb hn, fun hm hn => ?_⟩,
    fun p q n ha hb => ⟨?_, ?_, fun hn => ?_, ?_⟩, fun p q m ha hb => ⟨?_, ?_, fun hm => ?_, ?_⟩,
    fun p q ha hb => ⟨fun h => ?_, fun h => ?_, ?_⟩⟩
  · rw [fpAdd_of_finite ha hb, if_pos h]
  · rw [fpAdd_of_finite ha hb, if_neg h]
  · rw [fpSub_of_finite ha hb, if_pos h]
  · rw [fpSub_of_finite ha hb, if_neg h]
  · rw [fpMul_of_finite ha hb, h, roundToPattern_zero _ hone]
  · rw [fpDiv_of_finite ha hb hn, hm, Nat.zero_mul, roundToPattern_zero _ (Nat.pos_of_ne_zero hn)]
  · rw [fpDiv_of_finite_zero ha (hn ▸ hb) hm]
  all_goals simp only [fpSub, fpAdd, fpMul, fpDiv, valueOf_negate, negateValue, ha, hb]
  · rw [if_neg hn]
  · rw [if_neg hm]
  · rw [if_pos h, h]
  · rw [if_pos (Bool.eq_not.2 h)]

end Sys2Proof.Laws
end

section
/-! SUPPORT. The order of binary32 values (R335), and the conversions from and to signed integers (R336, R337). -/

namespace Sys2Proof.Laws

open Sys2Proof.Machine

/-! ### FCMP (R335) -/

/-- A finite value has a significand below 2^24 and a spacing of at most 2^253 units. -/
theorem units_lt {w : Word} {neg : Bool} {u : Nat} (h : valueOf w = .finite neg u) : u < 2 ^ 24 * 2 ^ 253 := by
  have hfrac : fractionField w < 2 ^ 23 := by rw [fractionField_eq]; omega
  have hexp : exponentField w < 256 := by rw [exponentField_eq]; omega
  rw [valueOf_eq_layout] at h
  split at h
  · split at h <;> cases h
  · cases h
    split
    · omega
    · calc (2 ^ 23 + fractionField w) * 2 ^ (exponentField w - 1)
          < 2 ^ 24 * 2 ^ (exponentField w - 1) := Nat.mul_lt_mul_of_pos_right (by omega) (Nat.two_pow_pos _)
        _ ≤ 2 ^ 24 * 2 ^ 253 := Nat.mul_le_mul_left _ (Nat.pow_le_pow_right (by omega) (by omega))

/-- Every finite value is below the units that `orderKey` gives an infinity. -/
theorem units_lt_infinity {w : Word} {neg : Bool} {u : Nat} (h : valueOf w = .finite neg u) : u < 2 ^ 277 :=
  (units_lt h).trans_eq (by rw [← pow_add])

/-- A number beyond the magnitude of another compares by its own sign. -/
theorem signed_beyond {bound n : Nat} (h : n < bound) (p q : Bool) :
    signed p bound ≠ signed q n ∧ (signed p bound < signed q n ↔ p = true) ∧ (signed q n < signed p bound ↔ p = false) := by
  cases p <;> cases q <;> simp only [signed] <;> grind

theorem signed_same_magnitude {bound : Nat} (h : 0 < bound) (p q : Bool) :
    (signed p bound = signed q bound ↔ p = q) ∧ (signed p bound < signed q bound ↔ p = true ∧ q = false) := by
  cases p <;> cases q <;> simp only [signed] <;> grind

theorem orderKey_eq_none_iff (x : Binary32) : orderKey x = none ↔ x = .nan := by
  cases x <;> simp only [orderKey, reduceCtorEq]

theorem fpCompare_of_keys {a b : Word} {x y : Int} (hx : orderKey (valueOf a) = some x) (hy : orderKey (valueOf b) = some y) :
    fpCompare a b = if x < y then .less else if x = y then .equal else .greater := by
  simp only [fpCompare, hx, hy]

theorem fpCompare_eq_unordered_iff (a b : Word) :
    fpCompare a b = .unordered ↔ valueOf a = .nan ∨ valueOf b = .nan := by
  rw [← orderKey_eq_none_iff, ← orderKey_eq_none_iff]
  unfold fpCompare
  cases orderKey (valueOf a) with
  | none => simp
  | some x =>
    cases orderKey (valueOf b) with
    | none => simp
    | some y =>
      simp only [reduceCtorEq, or_self, iff_false]
      split_ifs <;> simp

/-- For numbers, Z and N say how their keys compare. -/
theorem fcmpFlags_of_keys {a b : Word} {x y : Int} (hx : orderKey (valueOf a) = some x)
    (hy : orderKey (valueOf b) = some y) :
    ((fcmpFlags a b).z = true ↔ x = y) ∧ ((fcmpFlags a b).n = true ↔ x < y) := by
  simp only [fcmpFlags, fpCompare_of_keys hx hy, beq_iff_eq]
  rcases lt_trichotomy x y with hlt | rfl | hgt
  · simp [hlt, hlt.ne]
  · simp
  · simp [hgt.not_gt, hgt.ne']

/-- Settles O26: each case compares the keys, and the key of an infinity is beyond every finite one. -/
theorem fcmpWritesOrderFlags : Obligations.FcmpWritesOrderFlags := by
  intro rs1 rs2 s
  have hunordered : (fcmpFlags (s.reg rs1) (s.reg rs2)).c = true ↔ fpCompare (s.reg rs1) (s.reg rs2) = .unordered := beq_iff_eq
  refine ⟨fcmpFlags (s.reg rs1) (s.reg rs2), rfl, rfl, hunordered.trans (fpCompare_eq_unordered_iff _ _), fun hc => ?_,
    fun p q m n ha hb => ?_, fun p q ha hb => ?_, fun p q n ha hb => ?_, fun p q m ha hb => ?_⟩
  · simp [fcmpFlags, hunordered.1 hc]
  all_goals obtain ⟨hz, hn⟩ := fcmpFlags_of_keys (congrArg orderKey ha) (congrArg orderKey hb)
  · exact ⟨hz, hn⟩
  · obtain ⟨heq, hlt⟩ := signed_same_magnitude (pow_pos Nat.two_pos 277) p q
    exact ⟨hz.trans heq, hn.trans hlt⟩
  · obtain ⟨hne, hlt, -⟩ := signed_beyond (units_lt_infinity hb) p q
    exact ⟨Bool.eq_false_iff.2 fun h => hne (hz.1 h), Bool.eq_iff_iff.2 (hn.trans hlt)⟩
  · obtain ⟨hne, -, hlt⟩ := signed_beyond (units_lt_infinity ha) q p
    exact ⟨Bool.eq_false_iff.2 fun h => hne (hz.1 h).symm, Bool.eq_iff_iff.2 (hn.trans (hlt.trans (by simp)))⟩

/-! ### FCVT (R336) -/

/-- The value of a magnitude pattern with either sign before it. -/
theorem valueOf_withSign_finite {neg : Bool} {p u : Nat} (hp : p < 2 ^ 31)
    (h : valueOf (withSign false p) = .finite false u) : valueOf (withSign neg p) = .finite neg u := by
  cases neg with
  | false => exact h
  | true =>
    have hnat : (withSign true p).toNat = p + 2 ^ 31 := toNat_withSign true hp
    have hexp : exponentField (withSign true p) = exponentField (withSign false p) := by
      rw [exponentField_eq, exponentField_eq, hnat, toNat_withSign_false hp]
      omega
    have hfrac : fractionField (withSign true p) = fractionField (withSign false p) := by
      rw [fractionField_eq, fractionField_eq, hnat, toNat_withSign_false hp]
      omega
    have hsign : (withSign true p).getLsbD 31 = true := by
      rw [BitVec.getLsbD, hnat, Nat.add_comm, Nat.testBit_two_pow_add_eq, Nat.testBit_lt_two_pow hp]
      rfl
    rw [valueOf_eq_layout] at h ⊢
    rw [hexp, hfrac, hsign]
    split at h
    · split at h <;> cases h
    · next hfinite =>
      rw [if_neg hfinite, (Binary32.finite.inj h).2]

/-- A number of units that its spacing divides is rounded to itself. -/
theorem spacings_mul_of_dvd {n : Nat} (h : 2 ^ spacingExponent n 1 ∣ n) : spacings n 1 * 2 ^ spacingExponent n 1 = n := by
  have hexact : n % 2 ^ spacingExponent n 1 = 0 := Nat.mod_eq_zero_of_dvd h
  rw [spacings, spacingDivisor, Nat.one_mul, roundHalfEven, hexact, if_pos (by simp), Nat.div_mul_cancel h]

/-- The spacing around an integer of magnitude at most 2^24 divides it: below 2^24 it is at most 1, and at 2^24 it is 2. -/
theorem spacing_dvd_of_small {k : Nat} (hk : k ≤ 2 ^ 24) :
    2 ^ spacingExponent (k * 2 ^ 149) 1 ∣ k * 2 ^ 149 := by
  rcases Nat.lt_or_ge 149 (spacingExponent (k * 2 ^ 149) 1) with hlarge | hsmall
  · have hband : 2 ^ 23 * (1 * 2 ^ spacingExponent (k * 2 ^ 149) 1) ≤ k * 2 ^ 149 := spacings_band_le (by omega)
    have hpow : 2 ^ 150 ≤ 2 ^ spacingExponent (k * 2 ^ 149) 1 := Nat.pow_le_pow_right (by omega) hlarge
    have hspacing : 2 ^ spacingExponent (k * 2 ^ 149) 1 = 2 ^ 150 := by omega
    have hexact : k = 2 ^ 24 := by omega
    exact ⟨2 ^ 23, by rw [hspacing, hexact]; rfl⟩
  · exact (Nat.pow_dvd_pow 2 hsmall).mul_left k

/-- An integer of magnitude at most 2^24 has a pattern of its own. -/
theorem valueOf_roundToPattern_small (neg : Bool) {k : Nat} (hk : k ≤ 2 ^ 24) :
    valueOf (roundToPattern neg (k * 2 ^ 149) 1) = .finite neg (k * 2 ^ 149) := by
  obtain ⟨hvalue, -⟩ := roundToPattern_of_lt_threshold (n := k * 2 ^ 149) Nat.one_pos (by omega)
  rw [spacings_mul_of_dvd (spacing_dvd_of_small hk)] at hvalue
  exact valueOf_withSign_finite (roundMagnitude_lt _ _) hvalue

/-- Settles O27. -/
theorem fcvtRoundsSignedInteger : Obligations.FcvtRoundsSignedInteger := fun _ _ _ =>
  ⟨_, rfl, rfl, valueOf_roundToPattern_small _⟩

/-! ### ICVT (R337) -/

theorem exec_icvt_eq (rd rs1 : Reg) (s : State) :
    exec (.icvt rd rs1) s = .next (writeOrDraw rd (Config.icvtInvalid s.draws) (intOfFp (s.reg rs1)) s) := by
  rfl

/-- A finite value whose truncation is a signed word converts to it. -/
theorem intOfFp_of_inRange {w : Word} {neg : Bool} {u : Nat} (hw : valueOf w = .finite neg u)
    (hlo : -2 ^ 31 ≤ signed neg (u / 2 ^ 149)) (hhi : signed neg (u / 2 ^ 149) < 2 ^ 31) :
    intOfFp w = some (BitVec.ofInt 32 (signed neg (u / 2 ^ 149))) := by
  simp only [intOfFp, hw, oneUnits]
  exact if_neg (by omega)

/-- Every other value has no signed word. -/
theorem intOfFp_eq_none {w : Word}
    (h : ∀ neg u, valueOf w = .finite neg u →
      ¬ (-2 ^ 31 ≤ signed neg (u / 2 ^ 149) ∧ signed neg (u / 2 ^ 149) < 2 ^ 31)) : intOfFp w = none := by
  unfold intOfFp
  cases hw : valueOf w with
  | nan => rfl
  | inf neg => rfl
  | finite neg u =>
    have hout := h neg u hw
    simp only [oneUnits]
    exact if_pos (by omega)

/-- Settles O28. -/
theorem icvtTruncatesOrDraws : Obligations.IcvtTruncatesOrDraws := by
  refine fun rd rs1 s => ⟨fun neg u hw hlo hhi => ⟨_, BitVec.toInt_ofInt_eq_self (by decide) hlo hhi, ?_⟩,
    fun hout => ⟨Config.icvtInvalid s.draws, ?_⟩⟩
  · rw [exec_icvt_eq, intOfFp_of_inRange hw hlo hhi]
    rfl
  · rw [exec_icvt_eq, intOfFp_eq_none hout]
    rfl

theorem signed_natAbs (i : Int) : signed (decide (i < 0)) i.natAbs = i := by
  by_cases h : i < 0
  · simp [signed, h, abs_of_neg h]
  · simp [signed, h, abs_of_nonneg (not_lt.1 h)]

/-- The pattern of a small integer converts back to it. -/
theorem intOfFp_fpOfInt {v : Word} (hv : v.toInt.natAbs ≤ 2 ^ 24) : intOfFp (fpOfInt v) = some v := by
  have hvalue : valueOf (fpOfInt v) = .finite (decide (v.toInt < 0)) (v.toInt.natAbs * 2 ^ 149) :=
    valueOf_roundToPattern_small _ hv
  have hunits : signed (decide (v.toInt < 0)) (v.toInt.natAbs * 2 ^ 149 / 2 ^ 149) = v.toInt := by
    rw [Nat.mul_div_cancel _ (Nat.two_pow_pos 149), signed_natAbs]
  rw [intOfFp_of_inRange hvalue (by rw [hunits]; omega) (by rw [hunits]; omega), hunits, BitVec.ofInt_toInt]

theorem setReg_setReg (s : State) (r : Reg) (v w : Word) : (s.setReg r v).setReg r w = s.setReg r w := by
  simp [State.setReg]

/-- Settles O29. -/
theorem icvtInvertsFcvtOnSmallIntegers : Obligations.IcvtInvertsFcvtOnSmallIntegers := by
  intro rd rs1 s t hsmall hfcvt
  have ht : t = s.setReg rd (fpOfInt (s.reg rs1)) := (Host.Outcome.next.inj hfcvt).symm
  rw [ht, exec_icvt_eq, State.reg_setReg_same, intOfFp_fpOfInt hsmall]
  exact congrArg _ (setReg_setReg s rd _ _)

end Sys2Proof.Laws
end

section
/-! SUPPORT. The host ports and reset: the index argument of a port, every way a host operation changes the state, and the
values after reset. -/

namespace Sys2Proof.Laws

open Sys2Proof.Machine

/-! ### Vectors (R431, R432) -/

theorem portIndex_of_not {n : Nat} [NeZero n] {i : Int} (h : ¬ (0 ≤ i ∧ i < n)) : portIndex n i = none :=
  if_neg h

theorem portIndex_val {n : Nat} [NeZero n] (i : Fin n) : portIndex n (i.val : Int) = some i := by
  have hin : 0 ≤ (i.val : Int) ∧ (i.val : Int) < n := ⟨Int.natCast_nonneg _, Int.ofNat_lt.2 i.isLt⟩
  rw [portIndex, if_pos hin, Int.toNat_natCast, Fin.ofNat_val_eq_self]

theorem setHandler_val (i : Irq) (addr : Word) (s : State) :
    setHandler (i.val : Int) addr s =
      ({ s with vec := s.vec.set i { s.vec[i] with handlerAddr := addr, enabled := true } }, .done) := by
  simp only [setHandler, portIndex_val]

theorem trigger_val (i : Irq) (s : State) :
    trigger (i.val : Int) s = ({ s with vec := s.vec.set i { s.vec[i] with pending := true } }, .done) := by
  simp only [trigger, portIndex_val]

theorem vec_set_same (v : Vector IrqVector 32) (i : Irq) (x : IrqVector) : (v.set i x)[i] = x :=
  Vector.getElem_set_self i.isLt

theorem vec_set_ne (v : Vector IrqVector 32) {i j : Irq} (x : IrqVector) (h : j ≠ i) : (v.set i x)[j] = v[j] :=
  Vector.getElem_set_ne i.isLt j.isLt fun hij => h (Fin.ext hij).symm

/-- Settles O59. -/
theorem vectorPortsChangeOneVector : Obligations.VectorPortsChangeOneVector := by
  refine fun irq addr s => ⟨fun hout => ?_, fun i hirq => ?_⟩
  · have hnone : portIndex 32 irq = none := portIndex_of_not hout
    simp only [setHandler, trigger, hnone, and_self]
  · subst hirq
    exact ⟨_, _, setHandler_val i addr s, trigger_val i s, rfl, rfl, vec_set_same _ _ _, vec_set_same _ _ _,
      fun j hj => ⟨vec_set_ne _ _ hj, vec_set_ne _ _ hj⟩⟩

/-! ### Every host operation (R7) -/

/-- Every state that a host operation other than reset can lead to. -/
inductive HostEffect (s : State) : State → Prop where
  /-- neither memory, nor the breakpoints, nor `halted` -/
  | other (t : State) (hmem : t.mem = s.mem) (hbreakpoints : t.breakpoints = s.breakpoints)
      (hhalted : t.halted = s.halted) : HostEffect s t
  | copied (a : Nat) (bytes : List Byte) : HostEffect s (s.setMem (memWriteBytes s.mem a bytes))
  | added (a : Word) (hfresh : a ∉ s.breakpoints) (hroom : s.breakpoints.length < maxBreakpoints) :
      HostEffect s { s with breakpoints := s.breakpoints ++ [a] }
  | removed (a : Word) : HostEffect s { s with breakpoints := s.breakpoints.erase a }
  | cleared : HostEffect s { s with breakpoints := [] }

theorem HostEffect.unchanged (s : State) : HostEffect s s :=
  .other s rfl rfl rfl

theorem copyIn_effect (k : AccessKind) (addr : Word) (bytes : List Byte) (s : State) :
    HostEffect s (copyIn k addr bytes s).1 := by
  unfold copyIn
  split
  · exact .unchanged s
  · exact .copied _ _

theorem addBreakpoint_effect (a : Word) (s : State) : HostEffect s (addBreakpoint a s).1 := by
  unfold addBreakpoint
  split_ifs with hold hfull
  · exact .unchanged s
  · exact .unchanged s
  · exact .added a (by simpa using hold) (by omega)

theorem removeBreakpoint_effect (a : Word) (s : State) : HostEffect s (removeBreakpoint a s).1 := by
  unfold removeBreakpoint
  split_ifs
  · exact .removed a
  · exact .unchanged s

theorem hostOp_effect {op : HostOp} (h : op ≠ .reset) (s : State) : HostEffect s (hostOp op s) := by
  cases op with
  | setRegister i v =>
    simp only [hostOp, setRegister]
    split <;> exact .other _ rfl rfl rfl
  | setPageProtection page bits =>
    simp only [hostOp, setPageProtection]
    split <;> exact .other _ rfl rfl rfl
  | setHandler irq addr =>
    simp only [hostOp, setHandler]
    split <;> exact .other _ rfl rfl rfl
  | trigger irq =>
    simp only [hostOp, trigger]
    split <;> exact .other _ rfl rfl rfl
  | writeMemory addr buf => exact copyIn_effect _ _ _ _
  | loadProgram bytes addr => exact copyIn_effect _ _ _ _
  | addBreakpoint a => exact addBreakpoint_effect a s
  | removeBreakpoint a => exact removeBreakpoint_effect a s
  | clearBreakpoints => exact .cleared
  | setPc | setSp | setFp | setFlags | irqEnable | advance | dbgEnable | singleStep | breakRequest =>
    exact .other _ rfl rfl rfl
  | reset => exact absurd rfl h

theorem HostEffect.inv {s t : State} (h : HostEffect s t) (hinv : s.Inv) : t.Inv := by
  obtain ⟨hm, hnodup, hlength⟩ := hinv
  cases h with
  | other t hmem hbreakpoints =>
    rw [State.Inv, State.breakpointsOk, hmem, hbreakpoints]
    exact ⟨hm, hnodup, hlength⟩
  | copied a bytes => exact ⟨memWf_memWriteBytes hm a bytes, hnodup, hlength⟩
  | added a hfresh hroom =>
    refine ⟨hm, List.Nodup.append hnodup (List.nodup_singleton a) (by simpa using hfresh), ?_⟩
    rw [List.length_append]
    exact hroom
  | removed a => exact ⟨hm, hnodup.erase a, List.length_erase_le.trans hlength⟩
  | cleared => exact ⟨hm, List.nodup_nil, Nat.zero_le _⟩

/-! ### Reset (R60, R470, R471) -/

theorem memWf_memoryAfterReset (draw : Nat) : memWf (memoryAfterReset draw) := by
  unfold memoryAfterReset
  split
  · exact memWf_nil
  · exact memWf_memOfBytes _

theorem memRead_memoryAfterReset (draw : Nat) (h : Config.resetClearsMemory = true) (a : Nat) :
    memRead (memoryAfterReset draw) a = 0 := by
  rw [memoryAfterReset, if_pos h]
  rfl

theorem resetPort_inv (s : State) : (resetPort s).Inv :=
  ⟨memWf_memoryAfterReset s.draws, List.nodup_nil, Nat.zero_le _⟩

/-- Settles O56. -/
theorem hostOperationsKeepInvariant : Obligations.HostOperationsKeepInvariant := by
  intro op s hinv
  by_cases hreset : op = .reset
  · rw [hreset]
    exact resetPort_inv s
  · exact (hostOp_effect hreset s).inv hinv

theorem HostEffect.halted {s t : State} (h : HostEffect s t) : t.halted = s.halted := by
  cases h with
  | other t hmem hbreakpoints hhalted => exact hhalted
  | _ => rfl

/-- Settles O57. -/
theorem onlyResetLeavesHalted : Obligations.OnlyResetLeavesHalted := by
  refine fun s hh => ⟨fun t hstep => (stepTo_of_step hstep).of_halted hh, fun op => ⟨fun hrun => ?_, fun hreset => ?_⟩⟩
  · by_contra hreset
    rw [(hostOp_effect hreset s).halted, hh] at hrun
    exact Bool.noConfusion hrun
  · rw [hreset]
    rfl

theorem pageEntry_defaultPages (prm : Params) {p : Nat} (hp : p < 256) :
    pageEntry (defaultPages prm) p = defaultPageEntry prm p := by
  simp [pageEntry, defaultPages, Fin.ofNat, Nat.mod_eq_of_lt hp]

theorem pageIn_iff (p : Nat) (base size : Word) :
    pageIn p base size = true ↔ base.toNat ≤ p * 256 ∧ p * 256 < base.toNat + size.toNat := by
  simp [pageIn]

/-- The page map at the default parameters: the heap is pages 0x40 to 0xBF and MMIO pages 0xC0 to 0xDF. -/
theorem defaultPageEntry_defaultParams (p : Nat) :
    defaultPageEntry defaultParams p =
      if p ≤ 0x3F then 0x0D else if p ≤ 0xBF then 0x0B else if p ≤ 0xDF then 0x00 else 0x0B := by
  have hmmio : pageIn p defaultParams.mmioBase defaultParams.mmioSize = true ↔ 0xC0 ≤ p ∧ p < 0xE0 := by
    rw [pageIn_iff]
    change 0xC000 ≤ p * 256 ∧ p * 256 < 0xC000 + 0x2000 ↔ _
    omega
  have hheap : pageIn p defaultParams.heapBase defaultParams.heapSize = true ↔ 0x40 ≤ p ∧ p < 0xC0 := by
    rw [pageIn_iff]
    change 0x4000 ≤ p * 256 ∧ p * 256 < 0x4000 + 0x8000 ↔ _
    omega
  have hregion : p ≤ 0x3F ∨ (0x40 ≤ p ∧ p < 0xC0) ∨ (0xC0 ≤ p ∧ p < 0xE0) ∨ 0xE0 ≤ p := by omega
  simp only [defaultPageEntry, hmmio, hheap]
  rcases hregion with hcode | hheap | hmmio | hstack <;> simp (disch := omega) only [if_pos, if_neg]

/-- Settles O58. -/
theorem resetEstablishesInvariantAndValues : Obligations.ResetEstablishesInvariantAndValues := by
  refine ⟨⟨memWf_nil, List.nodup_nil, Nat.zero_le _⟩, fun r => Vector.getElem_replicate _, rfl, rfl, rfl, rfl, rfl, rfl, rfl,
    rfl, rfl, fun _ => rfl, fun p hp => ?_, rfl, fun i => Vector.getElem_replicate _, rfl, rfl, rfl, rfl, rfl, rfl, rfl, rfl,
    rfl, rfl, fun s => ⟨_, memWf_memoryAfterReset s.draws, memRead_memoryAfterReset s.draws, rfl⟩⟩
  exact (pageEntry_defaultPages defaultParams hp).trans (defaultPageEntry_defaultParams p)

end Sys2Proof.Laws
end
